-- ==== Sys2Proof/Word.lean ====
section
/-! DEFINITION. The sizes of Gambit that its spec fixes (00_scope.md R3): a byte is 13 bits, a word is 52 bits,
a register number is 5 bits. A memory cell is an address with its byte; the host's Cell is 8 bits wide and does
not hold a Gambit byte (log 27). -/

namespace Sys2Proof

/-- A byte, "the smallest addressable unit of data": 13 bits (R3). -/
abbrev Byte := BitVec 13

/-- A word, a register, an address or the program counter: 52 bits (R3). -/
abbrev Word := BitVec 52

/-- The number of a general register, R0 to R31 (R20). -/
abbrev Reg := BitVec 5

/-- One byte of memory at an address (R50). -/
abbrev Cell := Nat × Byte

/-- A word from its four bytes, the first at the lowest address and least significant (R51, R53). -/
abbrev wordOfBytes (b0 b1 b2 b3 : Byte) : Word := b3 ++ b2 ++ b1 ++ b0

end Sys2Proof
end

