-- ==== Sys2Proof/Syntax.lean ====
section
/-! DEFINITION. The instructions of Gambit: one constructor for each row of spec/opcode_table.json, its operand fields at their
encoded widths (30_encoding.md R82 to R92). The unused fields `~n` are no operands (R102). -/

namespace Sys2Proof

/-- One constructor per row of the opcode table, in the table's order. The suffix is the row's format: RR, RI9, RI23, RI36 (R82 to R85),
SI6 (R86), Abs46 (R87), Reg (the format R1 of R88), D4 and D17 (the formats B4 and B17 of R90). `rt` is the target in bits 10..6, `ra` and `rb`
the sources in bits 15..11 and 20..16, `rs` the register a store writes to memory, in bits 10..6. -/
inductive Instr where
  /-- ADD (R121). -/
  | addRR (rt ra rb : Reg)
  | addRI9 (rt ra : Reg) (imm : BitVec 9)
  | addRI23 (rt ra : Reg) (imm : BitVec 23)
  | addRI36 (rt ra : Reg) (imm : BitVec 36)
  /-- CMP (R123): the SUB encoding with Rt = R0. -/
  | cmpRR (ra rb : Reg)
  | cmpRI9 (ra : Reg) (imm : BitVec 9)
  | cmpRI23 (ra : Reg) (imm : BitVec 23)
  | cmpRI36 (ra : Reg) (imm : BitVec 36)
  /-- SUB (R122), Rt not R0. -/
  | subRR (rt ra rb : Reg)
  | subRI9 (rt ra : Reg) (imm : BitVec 9)
  | subRI23 (rt ra : Reg) (imm : BitVec 23)
  | subRI36 (rt ra : Reg) (imm : BitVec 36)
  /-- BIT (R125): the AND encoding with Rt = R0. -/
  | bitRR (ra rb : Reg)
  | bitRI9 (ra : Reg) (imm : BitVec 9)
  | bitRI23 (ra : Reg) (imm : BitVec 23)
  | bitRI36 (ra : Reg) (imm : BitVec 36)
  /-- AND (R124), Rt not R0. -/
  | andRR (rt ra rb : Reg)
  | andRI9 (rt ra : Reg) (imm : BitVec 9)
  | andRI23 (rt ra : Reg) (imm : BitVec 23)
  | andRI36 (rt ra : Reg) (imm : BitVec 36)
  /-- OR (R126). -/
  | orRR (rt ra rb : Reg)
  | orRI9 (rt ra : Reg) (imm : BitVec 9)
  | orRI23 (rt ra : Reg) (imm : BitVec 23)
  | orRI36 (rt ra : Reg) (imm : BitVec 36)
  /-- EOR (R127). -/
  | eorRR (rt ra rb : Reg)
  | eorRI9 (rt ra : Reg) (imm : BitVec 9)
  | eorRI23 (rt ra : Reg) (imm : BitVec 23)
  | eorRI36 (rt ra : Reg) (imm : BitVec 36)
  /-- ASL (R143). -/
  | aslRR (rt ra rb : Reg)
  | aslSI6 (rt ra : Reg) (imm : BitVec 6)
  /-- ROL (R144). -/
  | rolRR (rt ra rb : Reg)
  | rolSI6 (rt ra : Reg) (imm : BitVec 6)
  /-- LSR (R145). -/
  | lsrRR (rt ra rb : Reg)
  | lsrSI6 (rt ra : Reg) (imm : BitVec 6)
  /-- ROR (R146). -/
  | rorRR (rt ra rb : Reg)
  | rorSI6 (rt ra : Reg) (imm : BitVec 6)
  /-- LD (R151). -/
  | ldRR (rt ra rb : Reg)
  | ldRI9 (rt ra : Reg) (disp : BitVec 9)
  | ldRI23 (rt ra : Reg) (disp : BitVec 23)
  | ldRI36 (rt ra : Reg) (disp : BitVec 36)
  /-- LDB (R152). -/
  | ldbRI36 (rt ra : Reg) (disp : BitVec 36)
  /-- ST (R153). -/
  | stRR (rs ra rb : Reg)
  | stRI9 (rs ra : Reg) (disp : BitVec 9)
  | stRI23 (rs ra : Reg) (disp : BitVec 23)
  | stRI36 (rs ra : Reg) (disp : BitVec 36)
  /-- STB (R154). -/
  | stbRI36 (rs ra : Reg) (disp : BitVec 36)
  /-- JMP abs46 (R170). -/
  | jmpAbs46 (addr : BitVec 46)
  /-- JSR abs46 (R172). -/
  | jsrAbs46 (addr : BitVec 46)
  /-- JMP [Ra] (R171), the register in bits 10..6. -/
  | jmpReg (ra : Reg)
  /-- JSR [Ra] (R173), the register in bits 10..6. -/
  | jsrReg (ra : Reg)
  /-- RTS (R174). -/
  | rts
  /-- RTI (R175). -/
  | rti
  /-- PFI (R195). -/
  | pfi
  /-- WAI (R196). -/
  | wai
  /-- STP (R197). -/
  | stp
  /-- NOP (R176). -/
  | nop
  /-- RST in program text (R191). -/
  | rst
  /-- NMI in program text (R192). -/
  | nmi
  /-- IRQ in program text (R193). -/
  | irq
  /-- BRK (R190). -/
  | brk (const4 : BitVec 4)
  /-- The conditional branches with a 4-bit displacement (R179). -/
  | beqD4 (disp : BitVec 4)
  | bneD4 (disp : BitVec 4)
  | bplD4 (disp : BitVec 4)
  | bmiD4 (disp : BitVec 4)
  | bvsD4 (disp : BitVec 4)
  | bvcD4 (disp : BitVec 4)
  | bcsD4 (disp : BitVec 4)
  | bccD4 (disp : BitVec 4)
  /-- The conditional branches with a 17-bit displacement (R180). -/
  | beqD17 (disp : BitVec 17)
  | bneD17 (disp : BitVec 17)
  | bplD17 (disp : BitVec 17)
  | bmiD17 (disp : BitVec 17)
  | bvsD17 (disp : BitVec 17)
  | bvcD17 (disp : BitVec 17)
  | bcsD17 (disp : BitVec 17)
  | bccD17 (disp : BitVec 17)
  /-- BRA (R181). -/
  | braD4 (disp : BitVec 4)
  | braD17 (disp : BitVec 17)
  /-- PHP (R161). -/
  | php
  /-- PLP (R162). -/
  | plp
  /-- PSH (R163), the register in bits 10..6. -/
  | psh (ra : Reg)
  /-- POP (R164), the register in bits 10..6. -/
  | pop (rt : Reg)
  /-- SEP (R198). -/
  | sep (mask : BitVec 7)
  /-- REP (R199). -/
  | rep (mask : BitVec 7)
  /-- MVNB (R219). -/
  | mvnb
  /-- MVPB (R220). -/
  | mvpb
  /-- STSB (R221). -/
  | stsb
  /-- CMPSB (R222). -/
  | cmpsb
  /-- MVN (R214). -/
  | mvn
  /-- MVP (R215). -/
  | mvp
  /-- STS (R216). -/
  | sts
  /-- CMPS (R217). -/
  | cmps
deriving DecidableEq, Repr

end Sys2Proof
end

