-- ==== Sys2Proof/WellFormed.lean ====
section
/-! DEFINITION. Which terms of Instr an instruction word stands for. Every field of a constructor has its encoded width, so the one
check left is on the target of SUB and AND: their encodings with Rt = R0 are CMP and BIT (30_encoding.md R100). -/

namespace Sys2Proof

/-- Whether the term has an encoding: SUB and AND need a target that is not R0 (R100, R122, R124); every other term has one. -/
def Instr.wellFormed : Instr → Bool
  | .subRR rt _ _ => rt != 0
  | .subRI9 rt _ _ => rt != 0
  | .subRI23 rt _ _ => rt != 0
  | .subRI36 rt _ _ => rt != 0
  | .andRR rt _ _ => rt != 0
  | .andRI9 rt _ _ => rt != 0
  | .andRI23 rt _ _ => rt != 0
  | .andRI36 rt _ _ => rt != 0
  | .addRR _ _ _ | .addRI9 _ _ _ | .addRI23 _ _ _ | .addRI36 _ _ _ | .cmpRR _ _ | .cmpRI9 _ _ | .cmpRI23 _ _
  | .cmpRI36 _ _ | .bitRR _ _ | .bitRI9 _ _ | .bitRI23 _ _ | .bitRI36 _ _ | .orRR _ _ _ | .orRI9 _ _ _ | .orRI23 _ _ _
  | .orRI36 _ _ _ | .eorRR _ _ _ | .eorRI9 _ _ _ | .eorRI23 _ _ _ | .eorRI36 _ _ _ | .aslRR _ _ _ | .aslSI6 _ _ _
  | .rolRR _ _ _ | .rolSI6 _ _ _ | .lsrRR _ _ _ | .lsrSI6 _ _ _ | .rorRR _ _ _ | .rorSI6 _ _ _ | .ldRR _ _ _
  | .ldRI9 _ _ _ | .ldRI23 _ _ _ | .ldRI36 _ _ _ | .ldbRI36 _ _ _ | .stRR _ _ _ | .stRI9 _ _ _ | .stRI23 _ _ _
  | .stRI36 _ _ _ | .stbRI36 _ _ _ | .jmpAbs46 _ | .jsrAbs46 _ | .jmpReg _ | .jsrReg _ | .rts | .rti | .pfi | .wai
  | .stp | .nop | .rst | .nmi | .irq | .brk _ | .beqD4 _ | .bneD4 _ | .bplD4 _ | .bmiD4 _ | .bvsD4 _ | .bvcD4 _
  | .bcsD4 _ | .bccD4 _ | .beqD17 _ | .bneD17 _ | .bplD17 _ | .bmiD17 _ | .bvsD17 _ | .bvcD17 _ | .bcsD17 _
  | .bccD17 _ | .braD4 _ | .braD17 _ | .php | .plp | .psh _ | .pop _ | .sep _ | .rep _ | .mvnb | .mvpb | .stsb
  | .cmpsb | .mvn | .mvp | .sts | .cmps => true

end Sys2Proof
end

