-- ==== Sys2Proof/Decode.lean ====
section
/-! DEFINITION. The decoder of 30_encoding.md R103, total on any bytes and rejecting by name, and the encoder written from the same format
tables (R82 to R92). An instruction is handled as a window of 52 bits, bit 0 of the instruction at bit 0, the bits above its
length zero. -/

namespace Sys2Proof

/-- Why a run of bytes is no instruction. -/
inductive DecodeError where
  /-- There are fewer bytes than the length that the opcode gives (never met by the fetch, which reads that length). -/
  | truncated
  /-- The root opcode is unassigned (R101). -/
  | unassignedOpcode (op : BitVec 6)
  /-- The function or condition in bits 8..6 is unassigned in this opcode (R99, R101). -/
  | unassignedFunction (op : BitVec 6) (fn : BitVec 3)
deriving DecidableEq, Repr

/-! ### Fields of an instruction (R82 to R92) -/

/-- Opcode, bits 5..0 (R80). -/
def fieldOp (ins : BitVec 52) : BitVec 6 := ins.extractLsb' 0 6
/-- Rt5, Rs5, or the one register of format R1, bits 10..6. -/
def fieldRt (ins : BitVec 52) : Reg := ins.extractLsb' 6 5
/-- Ra5, bits 15..11. -/
def fieldRa (ins : BitVec 52) : Reg := ins.extractLsb' 11 5
/-- Rb5, bits 20..16. -/
def fieldRb (ins : BitVec 52) : Reg := ins.extractLsb' 16 5
/-- The selector of opcodes x0o and x6o, bit 25 (R82, R83, R86). -/
def fieldSel (ins : BitVec 52) : BitVec 1 := ins.extractLsb' 25 1
/-- Imm9 or Disp9, bits 24..16 (R83). -/
def fieldImm9 (ins : BitVec 52) : BitVec 9 := ins.extractLsb' 16 9
/-- Imm23 or Disp23, bits 38..16 (R84). -/
def fieldImm23 (ins : BitVec 52) : BitVec 23 := ins.extractLsb' 16 23
/-- Imm36 or Addr36, bits 51..16 (R85). -/
def fieldImm36 (ins : BitVec 52) : BitVec 36 := ins.extractLsb' 16 36
/-- Imm6, bits 21..16 (R86, R94). -/
def fieldImm6 (ins : BitVec 52) : BitVec 6 := ins.extractLsb' 16 6
/-- Address46, bits 51..6 (R87, R96). -/
def fieldAddr46 (ins : BitVec 52) : BitVec 46 := ins.extractLsb' 6 46
/-- Fn3 or Cond3, bits 8..6 (R89, R90). -/
def fieldFn3 (ins : BitVec 52) : BitVec 3 := ins.extractLsb' 6 3
/-- Disp4, or Const4 of BRK, bits 12..9 (R89, R90). -/
def fieldDisp4 (ins : BitVec 52) : BitVec 4 := ins.extractLsb' 9 4
/-- Disp17, bits 25..9 (R90). -/
def fieldDisp17 (ins : BitVec 52) : BitVec 17 := ins.extractLsb' 9 17
/-- Mask7, bits 12..6 (R91). -/
def fieldMask7 (ins : BitVec 52) : BitVec 7 := ins.extractLsb' 6 7

/-! ### Decoding -/

/-- The length in bytes, a function of the opcode alone: the table of R81. None for an unassigned opcode (R101). -/
def opcodeLength (op : BitVec 6) : Option Nat :=
  match op with
  | 0o00#6 | 0o10#6 | 0o30#6 | 0o40#6 | 0o50#6 | 0o60#6 | 0o70#6 => some 2
  | 0o01#6 | 0o11#6 | 0o31#6 | 0o41#6 | 0o51#6 | 0o61#6 | 0o71#6 => some 3
  | 0o02#6 | 0o12#6 | 0o32#6 | 0o42#6 | 0o52#6 | 0o62#6 | 0o72#6 => some 4
  | 0o06#6 | 0o16#6 | 0o26#6 | 0o36#6 => some 2
  | 0o15#6 | 0o35#6 => some 2
  | 0o04#6 | 0o14#6 | 0o64#6 | 0o74#6 => some 4
  | 0o24#6 | 0o34#6 | 0o44#6 | 0o54#6 => some 1
  | 0o05#6 | 0o25#6 | 0o45#6 | 0o65#6 | 0o75#6 => some 1
  | 0o46#6 | 0o56#6 | 0o66#6 | 0o76#6 => some 1
  | _ => none

/-- Group 24o by Fn3 (R99). -/
def decodeGroup24 (ins : BitVec 52) : Except DecodeError Instr :=
  match fieldFn3 ins with
  | 0#3 => .ok .rts
  | 1#3 => .ok .rti
  | 2#3 => .ok .pfi
  | 4#3 => .ok .wai
  | 6#3 => .ok .stp
  | 7#3 => .ok .nop
  | fn => .error (.unassignedFunction 0o24 fn)

/-- Group 34o by Fn3 (R99); bits 12..9 are BRK's Const4 (R89). -/
def decodeGroup34 (ins : BitVec 52) : Except DecodeError Instr :=
  match fieldFn3 ins with
  | 0#3 => .ok .rst
  | 1#3 => .ok .nmi
  | 2#3 => .ok .irq
  | 3#3 => .ok (.brk (fieldDisp4 ins))
  | fn => .error (.unassignedFunction 0o34 fn)

/-- Group 45o, the string instructions, by Fn3 (R99, R210). -/
def decodeGroup45 (ins : BitVec 52) : Except DecodeError Instr :=
  match fieldFn3 ins with
  | 0#3 => .ok .mvnb
  | 1#3 => .ok .mvpb
  | 2#3 => .ok .stsb
  | 3#3 => .ok .cmpsb
  | 4#3 => .ok .mvn
  | 5#3 => .ok .mvp
  | 6#3 => .ok .sts
  | _ => .ok .cmps

/-- Opcode 05o, the one-byte conditional branches, by Cond3 (R99). -/
def decodeBranchD4 (ins : BitVec 52) : Except DecodeError Instr :=
  match fieldFn3 ins with
  | 0#3 => .ok (.beqD4 (fieldDisp4 ins))
  | 1#3 => .ok (.bneD4 (fieldDisp4 ins))
  | 2#3 => .ok (.bplD4 (fieldDisp4 ins))
  | 3#3 => .ok (.bmiD4 (fieldDisp4 ins))
  | 4#3 => .ok (.bvsD4 (fieldDisp4 ins))
  | 5#3 => .ok (.bvcD4 (fieldDisp4 ins))
  | 6#3 => .ok (.bcsD4 (fieldDisp4 ins))
  | _ => .ok (.bccD4 (fieldDisp4 ins))

/-- Opcode 15o, the two-byte conditional branches, by Cond3 (R99; inferred rows, log 26). -/
def decodeBranchD17 (ins : BitVec 52) : Except DecodeError Instr :=
  match fieldFn3 ins with
  | 0#3 => .ok (.beqD17 (fieldDisp17 ins))
  | 1#3 => .ok (.bneD17 (fieldDisp17 ins))
  | 2#3 => .ok (.bplD17 (fieldDisp17 ins))
  | 3#3 => .ok (.bmiD17 (fieldDisp17 ins))
  | 4#3 => .ok (.bvsD17 (fieldDisp17 ins))
  | 5#3 => .ok (.bvcD17 (fieldDisp17 ins))
  | 6#3 => .ok (.bcsD17 (fieldDisp17 ins))
  | _ => .ok (.bccD17 (fieldDisp17 ins))

/-- Opcode x0o of an integer, logic, load or store instruction: bit 25 tells RR from RI9 (R82, R83, R103). -/
def pickRR (ins : BitVec 52) (rr ri9 : Instr) : Except DecodeError Instr :=
  if fieldSel ins = 0#1 then .ok rr else .ok ri9

/-- SUB and AND encodings: Rt5 = 0 selects the alternate mnemonic CMP or BIT (R100). -/
def pickRt (ins : BitVec 52) (alternate base : Instr) : Instr :=
  if fieldRt ins = 0#5 then alternate else base

/-- The instruction that a window of 52 bits holds (R103 step 4 and 5, R98). Unused fields are not looked at (R102, log 23). -/
def decodeIns (ins : BitVec 52) : Except DecodeError Instr :=
  let rt := fieldRt ins
  let ra := fieldRa ins
  let rb := fieldRb ins
  match fieldOp ins with
  | 0o00#6 => pickRR ins (.addRR rt ra rb) (.addRI9 rt ra (fieldImm9 ins))
  | 0o01#6 => .ok (.addRI23 rt ra (fieldImm23 ins))
  | 0o02#6 => .ok (.addRI36 rt ra (fieldImm36 ins))
  | 0o10#6 => pickRR ins (pickRt ins (.cmpRR ra rb) (.subRR rt ra rb))
      (pickRt ins (.cmpRI9 ra (fieldImm9 ins)) (.subRI9 rt ra (fieldImm9 ins)))
  | 0o11#6 => .ok (pickRt ins (.cmpRI23 ra (fieldImm23 ins)) (.subRI23 rt ra (fieldImm23 ins)))
  | 0o12#6 => .ok (pickRt ins (.cmpRI36 ra (fieldImm36 ins)) (.subRI36 rt ra (fieldImm36 ins)))
  | 0o30#6 => pickRR ins (pickRt ins (.bitRR ra rb) (.andRR rt ra rb))
      (pickRt ins (.bitRI9 ra (fieldImm9 ins)) (.andRI9 rt ra (fieldImm9 ins)))
  | 0o31#6 => .ok (pickRt ins (.bitRI23 ra (fieldImm23 ins)) (.andRI23 rt ra (fieldImm23 ins)))
  | 0o32#6 => .ok (pickRt ins (.bitRI36 ra (fieldImm36 ins)) (.andRI36 rt ra (fieldImm36 ins)))
  | 0o40#6 => pickRR ins (.orRR rt ra rb) (.orRI9 rt ra (fieldImm9 ins))
  | 0o41#6 => .ok (.orRI23 rt ra (fieldImm23 ins))
  | 0o42#6 => .ok (.orRI36 rt ra (fieldImm36 ins))
  | 0o50#6 => pickRR ins (.eorRR rt ra rb) (.eorRI9 rt ra (fieldImm9 ins))
  | 0o51#6 => .ok (.eorRI23 rt ra (fieldImm23 ins))
  | 0o52#6 => .ok (.eorRI36 rt ra (fieldImm36 ins))
  | 0o06#6 => pickRR ins (.aslRR rt ra rb) (.aslSI6 rt ra (fieldImm6 ins))
  | 0o16#6 => pickRR ins (.rolRR rt ra rb) (.rolSI6 rt ra (fieldImm6 ins))
  | 0o26#6 => pickRR ins (.lsrRR rt ra rb) (.lsrSI6 rt ra (fieldImm6 ins))
  | 0o36#6 => pickRR ins (.rorRR rt ra rb) (.rorSI6 rt ra (fieldImm6 ins))
  | 0o60#6 => pickRR ins (.ldRR rt ra rb) (.ldRI9 rt ra (fieldImm9 ins))
  | 0o61#6 => .ok (.ldRI23 rt ra (fieldImm23 ins))
  | 0o62#6 => .ok (.ldRI36 rt ra (fieldImm36 ins))
  | 0o64#6 => .ok (.ldbRI36 rt ra (fieldImm36 ins))
  | 0o70#6 => pickRR ins (.stRR rt ra rb) (.stRI9 rt ra (fieldImm9 ins))
  | 0o71#6 => .ok (.stRI23 rt ra (fieldImm23 ins))
  | 0o72#6 => .ok (.stRI36 rt ra (fieldImm36 ins))
  | 0o74#6 => .ok (.stbRI36 rt ra (fieldImm36 ins))
  | 0o04#6 => .ok (.jmpAbs46 (fieldAddr46 ins))
  | 0o14#6 => .ok (.jsrAbs46 (fieldAddr46 ins))
  | 0o44#6 => .ok (.jmpReg rt)
  | 0o54#6 => .ok (.jsrReg rt)
  | 0o24#6 => decodeGroup24 ins
  | 0o34#6 => decodeGroup34 ins
  | 0o45#6 => decodeGroup45 ins
  | 0o05#6 => decodeBranchD4 ins
  | 0o15#6 => decodeBranchD17 ins
  | 0o25#6 => if fieldFn3 ins = 0#3 then .ok (.braD4 (fieldDisp4 ins))
      else .error (.unassignedFunction 0o25 (fieldFn3 ins))
  | 0o35#6 => if fieldFn3 ins = 0#3 then .ok (.braD17 (fieldDisp17 ins))
      else .error (.unassignedFunction 0o35 (fieldFn3 ins))
  | 0o75#6 => .ok .php
  | 0o65#6 => .ok .plp
  | 0o76#6 => .ok (.psh rt)
  | 0o66#6 => .ok (.pop rt)
  | 0o46#6 => .ok (.sep (fieldMask7 ins))
  | 0o56#6 => .ok (.rep (fieldMask7 ins))
  | op => .error (.unassignedOpcode op)

/-- The opcode of the instruction whose first byte is b0: its low six bits (R80). -/
def opcodeOfByte (b0 : Byte) : BitVec 6 := b0.extractLsb' 0 6

/-- Byte k of the instruction is bits 13k+12..13k (R57): bytes joined little-endian, bits above them zero. -/
def joinBytes : List Byte → BitVec 52
  | [] => 0#52
  | b :: bs => b.setWidth 52 ||| (joinBytes bs <<< 13)

/-- The instruction at the front of a run of bytes, lowest address first (R103). -/
def decode (bytes : List Byte) : Except DecodeError Instr :=
  match bytes with
  | [] => .error .truncated
  | b0 :: _ =>
    match opcodeLength (opcodeOfByte b0) with
    | none => .error (.unassignedOpcode (opcodeOfByte b0))
    | some len => if bytes.length < len then .error .truncated else decodeIns (joinBytes (bytes.take len))

/-- The low n bytes of a window, lowest address first (R51, R57). -/
def splitBytes : Nat → BitVec 52 → List Byte
  | 0, _ => []
  | n + 1, ins => ins.extractLsb' 0 13 :: splitBytes n (ins >>> 13)

/-- The instruction the decoder reads from a table row's word: bit 0 of w is bit 0 of the instruction, laid out in four bytes, the
first at the lowest address. Every bit above nbits is 0 in w, so nbits itself is not needed (log 39). -/
def decodeTableWord (_nbits w : Nat) : Option Instr :=
  (decode (splitBytes 4 (BitVec.ofNat 52 w))).toOption

/-! ### Encoding -/

/-- Format RR, and the register form of the shifts (R82): bit 25 is 0, bits 24..21 unused. -/
def packRR (op : BitVec 6) (rt ra rb : Reg) : BitVec 52 := (0#31 ++ rb ++ ra ++ rt ++ op : BitVec (31 + 5 + 5 + 5 + 6))
/-- Format RI9 (R83): bit 25 is 1. -/
def packRI9 (op : BitVec 6) (rt ra : Reg) (imm : BitVec 9) : BitVec 52 :=
  (0#26 ++ 1#1 ++ imm ++ ra ++ rt ++ op : BitVec (26 + 1 + 9 + 5 + 5 + 6))
/-- Format RI23 (R84). -/
def packRI23 (op : BitVec 6) (rt ra : Reg) (imm : BitVec 23) : BitVec 52 :=
  (0#13 ++ imm ++ ra ++ rt ++ op : BitVec (13 + 23 + 5 + 5 + 6))
/-- Format RI36 (R85). -/
def packRI36 (op : BitVec 6) (rt ra : Reg) (imm : BitVec 36) : BitVec 52 :=
  (imm ++ ra ++ rt ++ op : BitVec (36 + 5 + 5 + 6))
/-- Format SI6 (R86): bit 25 is 1, bits 24..22 unused. -/
def packSI6 (op : BitVec 6) (rt ra : Reg) (imm : BitVec 6) : BitVec 52 :=
  (0#26 ++ 1#1 ++ 0#3 ++ imm ++ ra ++ rt ++ op : BitVec (26 + 1 + 3 + 6 + 5 + 5 + 6))
/-- Format ABS46 (R87). -/
def packAbs46 (op : BitVec 6) (addr : BitVec 46) : BitVec 52 := (addr ++ op : BitVec (46 + 6))
/-- Format R1 (R88): bits 12..11 unused. -/
def packR1 (op : BitVec 6) (r : Reg) : BitVec 52 := (0#41 ++ r ++ op : BitVec (41 + 5 + 6))
/-- Formats F1 and B4 (R89, R90): four bits above the function, unused in F1 but for BRK. -/
def packF1 (op : BitVec 6) (fn : BitVec 3) (x : BitVec 4) : BitVec 52 := (0#39 ++ x ++ fn ++ op : BitVec (39 + 4 + 3 + 6))
/-- Format B17 (R90). -/
def packB17 (op : BitVec 6) (cond : BitVec 3) (disp : BitVec 17) : BitVec 52 :=
  (0#26 ++ disp ++ cond ++ op : BitVec (26 + 17 + 3 + 6))
/-- Formats M7 and Z1 (R91, R92): seven bits above the opcode, unused in Z1. -/
def packM7 (op : BitVec 6) (mask : BitVec 7) : BitVec 52 := (0#39 ++ mask ++ op : BitVec (39 + 7 + 6))

/-- The opcode, length and fields of every instruction, from the format tables (R82 to R92, R98, R99): the window of its bits. -/
def encodeIns : Instr → BitVec 52
  | .addRR rt ra rb => packRR 0o00 rt ra rb
  | .addRI9 rt ra imm => packRI9 0o00 rt ra imm
  | .addRI23 rt ra imm => packRI23 0o01 rt ra imm
  | .addRI36 rt ra imm => packRI36 0o02 rt ra imm
  | .cmpRR ra rb => packRR 0o10 0 ra rb
  | .cmpRI9 ra imm => packRI9 0o10 0 ra imm
  | .cmpRI23 ra imm => packRI23 0o11 0 ra imm
  | .cmpRI36 ra imm => packRI36 0o12 0 ra imm
  | .subRR rt ra rb => packRR 0o10 rt ra rb
  | .subRI9 rt ra imm => packRI9 0o10 rt ra imm
  | .subRI23 rt ra imm => packRI23 0o11 rt ra imm
  | .subRI36 rt ra imm => packRI36 0o12 rt ra imm
  | .bitRR ra rb => packRR 0o30 0 ra rb
  | .bitRI9 ra imm => packRI9 0o30 0 ra imm
  | .bitRI23 ra imm => packRI23 0o31 0 ra imm
  | .bitRI36 ra imm => packRI36 0o32 0 ra imm
  | .andRR rt ra rb => packRR 0o30 rt ra rb
  | .andRI9 rt ra imm => packRI9 0o30 rt ra imm
  | .andRI23 rt ra imm => packRI23 0o31 rt ra imm
  | .andRI36 rt ra imm => packRI36 0o32 rt ra imm
  | .orRR rt ra rb => packRR 0o40 rt ra rb
  | .orRI9 rt ra imm => packRI9 0o40 rt ra imm
  | .orRI23 rt ra imm => packRI23 0o41 rt ra imm
  | .orRI36 rt ra imm => packRI36 0o42 rt ra imm
  | .eorRR rt ra rb => packRR 0o50 rt ra rb
  | .eorRI9 rt ra imm => packRI9 0o50 rt ra imm
  | .eorRI23 rt ra imm => packRI23 0o51 rt ra imm
  | .eorRI36 rt ra imm => packRI36 0o52 rt ra imm
  | .aslRR rt ra rb => packRR 0o06 rt ra rb
  | .aslSI6 rt ra imm => packSI6 0o06 rt ra imm
  | .rolRR rt ra rb => packRR 0o16 rt ra rb
  | .rolSI6 rt ra imm => packSI6 0o16 rt ra imm
  | .lsrRR rt ra rb => packRR 0o26 rt ra rb
  | .lsrSI6 rt ra imm => packSI6 0o26 rt ra imm
  | .rorRR rt ra rb => packRR 0o36 rt ra rb
  | .rorSI6 rt ra imm => packSI6 0o36 rt ra imm
  | .ldRR rt ra rb => packRR 0o60 rt ra rb
  | .ldRI9 rt ra disp => packRI9 0o60 rt ra disp
  | .ldRI23 rt ra disp => packRI23 0o61 rt ra disp
  | .ldRI36 rt ra disp => packRI36 0o62 rt ra disp
  | .ldbRI36 rt ra disp => packRI36 0o64 rt ra disp
  | .stRR rs ra rb => packRR 0o70 rs ra rb
  | .stRI9 rs ra disp => packRI9 0o70 rs ra disp
  | .stRI23 rs ra disp => packRI23 0o71 rs ra disp
  | .stRI36 rs ra disp => packRI36 0o72 rs ra disp
  | .stbRI36 rs ra disp => packRI36 0o74 rs ra disp
  | .jmpAbs46 addr => packAbs46 0o04 addr
  | .jsrAbs46 addr => packAbs46 0o14 addr
  | .jmpReg ra => packR1 0o44 ra
  | .jsrReg ra => packR1 0o54 ra
  | .rts => packF1 0o24 0 0
  | .rti => packF1 0o24 1 0
  | .pfi => packF1 0o24 2 0
  | .wai => packF1 0o24 4 0
  | .stp => packF1 0o24 6 0
  | .nop => packF1 0o24 7 0
  | .rst => packF1 0o34 0 0
  | .nmi => packF1 0o34 1 0
  | .irq => packF1 0o34 2 0
  | .brk const4 => packF1 0o34 3 const4
  | .beqD4 disp => packF1 0o05 0 disp
  | .bneD4 disp => packF1 0o05 1 disp
  | .bplD4 disp => packF1 0o05 2 disp
  | .bmiD4 disp => packF1 0o05 3 disp
  | .bvsD4 disp => packF1 0o05 4 disp
  | .bvcD4 disp => packF1 0o05 5 disp
  | .bcsD4 disp => packF1 0o05 6 disp
  | .bccD4 disp => packF1 0o05 7 disp
  | .beqD17 disp => packB17 0o15 0 disp
  | .bneD17 disp => packB17 0o15 1 disp
  | .bplD17 disp => packB17 0o15 2 disp
  | .bmiD17 disp => packB17 0o15 3 disp
  | .bvsD17 disp => packB17 0o15 4 disp
  | .bvcD17 disp => packB17 0o15 5 disp
  | .bcsD17 disp => packB17 0o15 6 disp
  | .bccD17 disp => packB17 0o15 7 disp
  | .braD4 disp => packF1 0o25 0 disp
  | .braD17 disp => packB17 0o35 0 disp
  | .php => packM7 0o75 0
  | .plp => packM7 0o65 0
  | .psh ra => packR1 0o76 ra
  | .pop rt => packR1 0o66 rt
  | .sep mask => packM7 0o46 mask
  | .rep mask => packM7 0o56 mask
  | .mvnb => packF1 0o45 0 0
  | .mvpb => packF1 0o45 1 0
  | .stsb => packF1 0o45 2 0
  | .cmpsb => packF1 0o45 3 0
  | .mvn => packF1 0o45 4 0
  | .mvp => packF1 0o45 5 0
  | .sts => packF1 0o45 6 0
  | .cmps => packF1 0o45 7 0

/-- The length in bytes of an instruction (the "Bytes" column of R81's tables). -/
def Instr.length : Instr → Nat
  | .jmpReg _ | .jsrReg _ | .rts | .rti | .pfi | .wai | .stp | .nop | .rst | .nmi | .irq | .brk _ | .beqD4 _
  | .bneD4 _ | .bplD4 _ | .bmiD4 _ | .bvsD4 _ | .bvcD4 _ | .bcsD4 _ | .bccD4 _ | .braD4 _ | .php | .plp | .psh _
  | .pop _ | .sep _ | .rep _ | .mvnb | .mvpb | .stsb | .cmpsb | .mvn | .mvp | .sts | .cmps => 1
  | .addRR _ _ _ | .addRI9 _ _ _ | .cmpRR _ _ | .cmpRI9 _ _ | .subRR _ _ _ | .subRI9 _ _ _ | .bitRR _ _ | .bitRI9 _ _
  | .andRR _ _ _ | .andRI9 _ _ _ | .orRR _ _ _ | .orRI9 _ _ _ | .eorRR _ _ _ | .eorRI9 _ _ _ | .aslRR _ _ _
  | .aslSI6 _ _ _ | .rolRR _ _ _ | .rolSI6 _ _ _ | .lsrRR _ _ _ | .lsrSI6 _ _ _ | .rorRR _ _ _ | .rorSI6 _ _ _
  | .ldRR _ _ _ | .ldRI9 _ _ _ | .stRR _ _ _ | .stRI9 _ _ _ | .beqD17 _ | .bneD17 _ | .bplD17 _ | .bmiD17 _
  | .bvsD17 _ | .bvcD17 _ | .bcsD17 _ | .bccD17 _ | .braD17 _ => 2
  | .addRI23 _ _ _ | .cmpRI23 _ _ | .subRI23 _ _ _ | .bitRI23 _ _ | .andRI23 _ _ _ | .orRI23 _ _ _ | .eorRI23 _ _ _
  | .ldRI23 _ _ _ | .stRI23 _ _ _ => 3
  | .addRI36 _ _ _ | .cmpRI36 _ _ | .subRI36 _ _ _ | .bitRI36 _ _ | .andRI36 _ _ _ | .orRI36 _ _ _ | .eorRI36 _ _ _
  | .ldRI36 _ _ _ | .ldbRI36 _ _ _ | .stRI36 _ _ _ | .stbRI36 _ _ _ | .jmpAbs46 _ | .jsrAbs46 _ => 4

/-- The bytes of an instruction, lowest address first; unused fields are written zero (R102). -/
def encode (i : Instr) : List Byte := splitBytes i.length (encodeIns i)

end Sys2Proof
end

