-- ==== Sys2Proof/Config.lean ====
section
/-! DEFINITION. What the spec leaves to an implementation: the named parameters of 00_scope.md R4 as one structure,
their defaults, and the free values (constants with no body, so that nothing can be proved of what they are).
The values this machine takes stand in Sys2Proof/Machine/Platform.lean. -/

namespace Sys2Proof

/-- How a narrow field is widened to 52 bits: the values of IMM_EXT and LDB_EXT (R4, D2, D10). -/
inductive Ext where
  | sign
  | zero
deriving DecidableEq, Repr

/-- SUB_CARRY, the sense of `c` after a subtraction (R4, R28, D5). -/
inductive SubCarry where
  /-- `c` is 1 when there is no borrow (the default). -/
  | noBorrow
  /-- `c` is 1 when there is a borrow. -/
  | borrow
deriving DecidableEq, Repr

/-- SHIFT_CARRY, what `c` receives from a shift (R4, R142, D6, U6). -/
inductive ShiftCarry where
  /-- The last bit moved out, unchanged when the count is 0 (the default). -/
  | lastBitOut
  /-- U6's cautious treatment: after any shift `c` is any value. -/
  | anyValue
deriving DecidableEq, Repr

/-- MISALIGNED_WORD, what a 52-bit data access at an address that is no multiple of 4 does (R4, R56, D12). -/
inductive Misaligned where
  /-- The model refuses the access (the spec's default). -/
  | refuse
  /-- The access is made byte by byte, as R53 and R54 literally say. -/
  | split
deriving DecidableEq, Repr

/-- BRANCH_BASE, what a branch displacement is added to (R4, R178, D14). -/
inductive BranchBase where
  /-- The address of the next instruction (the default). -/
  | nextInstruction
  /-- The address of the branch itself. -/
  | branchItself
deriving DecidableEq, Repr

/-- SR_LAYOUT, the bit of the 52-bit image of `SR` that holds each flag (R4, R29, D8). -/
structure SrLayout where
  c : Fin 52
  v : Fin 52
  n : Fin 52
  z : Fin 52
  i : Fin 52
  u : Fin 52
  b : Fin 52
  d : Fin 52
deriving DecidableEq, Repr

/-- What stands behind an address (R59, MEM_MAP). -/
inductive AddrKind where
  | memory
  | device
  | nothing
deriving DecidableEq, Repr

/-- A window of the address map that is not plain memory, or is again (the first window that holds an address counts). -/
structure Window where
  base : Nat
  size : Nat
  kind : AddrKind
deriving DecidableEq, Repr

/-- The named parameters of R4, one field each, in the order of its table. -/
structure Config where
  /-- IMM_EXT -/
  immExt : Ext
  /-- SUB_CARRY -/
  subCarry : SubCarry
  /-- SHIFT_CARRY -/
  shiftCarry : ShiftCarry
  /-- SR_LAYOUT -/
  srLayout : SrLayout
  /-- LDB_EXT -/
  ldbExt : Ext
  /-- MISALIGNED_WORD -/
  misalignedWord : Misaligned
  /-- BRANCH_BASE -/
  branchBase : BranchBase
  /-- VEC_BRK -/
  vecBrk : Word
  /-- VEC_RST -/
  vecRst : Word
  /-- VEC_NMI -/
  vecNmi : Word
  /-- VEC_IRQ -/
  vecIrq : Word
  /-- MEM_MAP: the windows that are not plain memory; everything outside them is. -/
  memMap : List Window
deriving DecidableEq, Repr

/-- The default of every parameter, as R4's table gives it. UNVERIFIED (log 5, 6, 7, 10, 12, 13, 14, 19): the spec's own decisions,
which no source confirms. -/
def Config.default : Config where
  immExt := .sign
  subCarry := .noBorrow
  shiftCarry := .lastBitOut
  srLayout := { c := 0, v := 1, n := 2, z := 3, i := 4, u := 5, b := 6, d := 7 }
  ldbExt := .sign
  misalignedWord := .refuse
  branchBase := .nextInstruction
  vecBrk := 0xFFFFFFFFFFFFC
  vecRst := 0xFFFFFFFFFFFF8
  vecNmi := 0xFFFFFFFFFFFF4
  vecIrq := 0xFFFFFFFFFFFFC
  memMap := []

/-- The four shifts of 41_shift.md. -/
inductive ShiftOp where
  | asl
  | rol
  | lsr
  | ror
deriving DecidableEq, Repr

/-- FREE VALUE (log 8): the result of a shift by 52 or more, which no place of the spec states (R141, U3). Its arguments are
the shift, the operand, the count and State.tick, so that no two executions are tied together. -/
opaque Config.freeShiftResult : ShiftOp → Word → Word → Nat → Word

/-- FREE VALUE (log 7, log 8): `c` after a shift by 52 or more (R141), and after any shift under SHIFT_CARRY = anyValue (U6). -/
opaque Config.freeShiftCarry : ShiftOp → Word → Word → Nat → Bool

/-- FREE VALUE (log 15): which of the bytes an address has held a fetch sees there after a store (R64, U4); its arguments
are State.tick and the address. -/
opaque Config.freeFetchChoice : Nat → Word → Nat

end Sys2Proof
end

