-- ==== Sys2Proof/Machine/Memory.lean ====
section
/-! DEFINITION. Memory (10_state.md R31, 20_memory.md R50 to R54): 2^52 bytes of 13 bits, held as the list of the cells that do not
read as `unlistedByte`, in rising address order, so that equal memories are equal lists. -/

namespace Sys2Proof.Machine

/-- Memory in its canonical form; see Memory.wf. -/
abbrev Memory := List Cell

/-- What an address that is not listed reads as: 0. DESIGN CHOICE (log 3): R33 and U18 leave memory after reset unspecified. -/
def unlistedByte : Byte := 0#13

/-- The canonical form: addresses below 2^52 and strictly rising, and no entry equal to what an unlisted address reads as. -/
def Memory.wf : Memory → Bool
  | [] => true
  | (k, b) :: rest => decide (k < 2 ^ 52) && b != unlistedByte && rest.all (fun c => decide (k < c.1)) && Memory.wf rest

/-- The byte at an address (R50). -/
def Memory.readByte : Memory → Nat → Byte
  | [], _ => unlistedByte
  | (k, b) :: rest, a => if k = a then b else Memory.readByte rest a

/-- Memory with the byte at an address replaced, in canonical form again (R54). -/
def Memory.writeByte : Memory → Nat → Byte → Memory
  | [], a, v => if v = unlistedByte then [] else [(a, v)]
  | (k, b) :: rest, a, v =>
    if a < k then (if v = unlistedByte then (k, b) :: rest else (a, v) :: (k, b) :: rest)
    else if a = k then (if v = unlistedByte then rest else (a, v) :: rest)
    else (k, b) :: Memory.writeByte rest a v

/-- MemRead(a, 4) of R53: byte k at (a + k) mod 2^52, the byte at the lowest address least significant (R51, R52). -/
def Memory.readWord (m : Memory) (a : Word) : Word :=
  wordOfBytes (m.readByte a.toNat) (m.readByte (a + 1#52).toNat) (m.readByte (a + 2#52).toNat) (m.readByte (a + 3#52).toNat)

/-- Byte k of a word: bits 13k+12..13k (R54). -/
def byteOfWord (v : Word) (k : Nat) : Byte := v.extractLsb' (13 * k) 13

/-- What stands behind an address by a list of windows; an address in no window is plain memory (MEM_MAP, R59). -/
def addrKind (windows : List Window) (a : Nat) : AddrKind :=
  match windows.find? (fun w => decide (w.base ≤ a) && decide (a < w.base + w.size)) with
  | some w => w.kind
  | none => .memory

end Sys2Proof.Machine
end

