-- ==== Sys2Proof/Machine/Platform.lean ====
section
/-! DEFINITION. The value this machine takes for every named parameter of 00_scope.md R4. Every operation asks here. -/

namespace Sys2Proof.Machine

/-- The machine's parameters: R4's defaults, but for MISALIGNED_WORD, where the model takes the parameter's other value `split`
(log 11): the spec names it as an effect, and ordinary data then ends no run. -/
def config : Config := { Config.default with misalignedWord := .split }

end Sys2Proof.Machine
end

