-- ==== Sys2Proof/Machine/State.lean ====
section
/-! DEFINITION. The state of Gambit (10_state.md): 32 general registers, the program counter, the status register, the memory and the run
state, and beside them the inputs of R236 and two fields of the model's own. Plain data. -/

namespace Sys2Proof.Machine

/-- The eight flags of the status register `SR` (R25). The place of each in the 52-bit image is SR_LAYOUT's (R29). -/
structure Flags where
  /-- carry -/
  c : Bool
  /-- overflow -/
  v : Bool
  /-- negative -/
  n : Bool
  /-- zero -/
  z : Bool
  /-- interrupt mask -/
  i : Bool
  /-- no described meaning, plain storage -/
  u : Bool
  /-- break -/
  b : Bool
  /-- decimal, no effect -/
  d : Bool
deriving DecidableEq, Repr

/-- The run state of the core (R32 (a), R244). -/
inductive RunState where
  | running
  /-- after WAI, until an input (R196) -/
  | waiting
  /-- after STP, until rst (R197) -/
  | stopped
deriving DecidableEq, Repr

/-- The three inputs at one instruction boundary (R32 (b), R236). -/
structure Inputs where
  rst : Bool
  nmi : Bool
  irq : Bool
deriving DecidableEq, Repr

/-- The state of the machine. -/
structure State where
  /-- R0 to R31 (R20); slot 0 is never written and never looked at (R21). -/
  regs : Vector Word 32
  /-- The program counter (R24): during an instruction, the address of its first byte. -/
  pc : Word
  /-- `SR` (R25). -/
  flags : Flags
  /-- The run state (R32). -/
  run : RunState
  /-- Memory (R31, R50). -/
  mem : Memory
  /-- The inputs the environment will present, one entry a boundary; all false when the list has run out (R236; log 16). -/
  inputs : List Inputs
  /-- The MODEL's own (log 15): the byte values that stores have replaced, with their addresses (R64, U4). -/
  overwritten : List Cell
  /-- The MODEL's own (log 9): one more at each instruction fetched; the free values of Config are applied to it. -/
  tick : Nat
deriving DecidableEq, Repr

/-- Why the machine stops with a fault. The hardware has none (R230). -/
inductive Fault where
  /-- Raised by a read, a write or a fetch at an address that MEM_MAP says holds nothing (log 14). Safe: the run ends where the
  spec says there is nothing to access. No address is such under the default map. -/
  | unmapped (addr : Word)
deriving DecidableEq, Repr

/-- Why the model gives no next state. -/
inductive Refusal where
  /-- Raised by an arm of exec whose instruction has no meaning yet. Safe: nothing is claimed of it. No arm raises it. -/
  | notModelled (mnemonic : String)
  /-- Raised by the step where the bytes at pc are no instruction (R101, D16, U1; log 24). Safe: the spec gives such an encoding
  no meaning and no length. -/
  | unassignedEncoding
  /-- Raised by a 52-bit data access at an address that is no multiple of 4 under MISALIGNED_WORD = refuse (R56, U2). Safe. The
  machine takes the value split (log 11), under which nothing raises it. -/
  | misalignedWord (addr : Word)
  /-- Raised by a read, a write or a fetch at an address that MEM_MAP gives to a device (R59, D38; log 14). Safe: the spec
  describes no device. No address is such under the default map. -/
  | deviceAccess (addr : Word)
deriving DecidableEq, Repr

/-- The machine right after reset (R33, R250): `i` = 1, `b` = 0, running, pc the word at VEC_RST, R0 = 0. R1 to R31, the flags
c v n z u d and memory have no reset value in the spec: all 0, DESIGN CHOICE (log 1, 2, 3). No input is coming and nothing has
been overwritten. -/
def State.reset : State where
  regs := Vector.replicate 32 0
  pc := Memory.readWord [] config.vecRst
  flags := { c := false, v := false, n := false, z := false, i := true, u := false, b := false, d := false }
  run := .running
  mem := []
  inputs := []
  overwritten := []
  tick := 0

end Sys2Proof.Machine
end

