-- ==== Sys2Proof/Machine/Flags.lean ====
section
/-! DEFINITION. Every flag computation of the spec, as functions on the flags and the operands alone (10_state.md R26 to R29, 40_alu.md,
41_shift.md R142, 45_system.md R198 and R199). -/

namespace Sys2Proof.Machine

/-- setNZ(r): `n` is bit 51 of the result, `z` whether it is zero (R26). -/
def Flags.setNZ (f : Flags) (r : Word) : Flags := { f with n := r.getLsbD 51, z := decide (r = 0#52) }

/-- `c` of an addition: bit 52 of the natural sum (R28). -/
def addCarry (a b : Word) : Bool := (a.toNat + b.toNat).testBit 52

/-- `v` of an addition: operands of one sign, result of the other (R28). -/
def addOverflow (a b : Word) : Bool :=
  a.getLsbD 51 == b.getLsbD 51 && (a + b).getLsbD 51 != a.getLsbD 51

/-- `c` of a subtraction (R28): bit 52 of a + ~b + 1, or its complement, as SUB_CARRY says. -/
def subCarry (sense : SubCarry) (a b : Word) : Bool :=
  let carryOut := (a.toNat + (~~~b).toNat + 1).testBit 52
  match sense with
  | .noBorrow => carryOut
  | .borrow => !carryOut

/-- `v` of a subtraction: operands of different signs, result not of the first one's (R28). -/
def subOverflow (a b : Word) : Bool :=
  a.getLsbD 51 != b.getLsbD 51 && (a - b).getLsbD 51 != a.getLsbD 51

/-- ADD writes v c n z (R121). -/
def Flags.afterAdd (f : Flags) (a b : Word) : Flags :=
  Flags.setNZ { f with c := addCarry a b, v := addOverflow a b } (a + b)

/-- SUB writes v c n z (R122). -/
def Flags.afterSub (f : Flags) (a b : Word) : Flags :=
  Flags.setNZ { f with c := subCarry config.subCarry a b, v := subOverflow a b } (a - b)

/-- CMP, and the compare step of CMPS and CMPSB, write c n z (R123, R217). -/
def Flags.afterCmp (f : Flags) (a b : Word) : Flags :=
  Flags.setNZ { f with c := subCarry config.subCarry a b } (a - b)

/-- BIT writes v n z: `v` is bit 50 of the result (R125). -/
def Flags.afterBit (f : Flags) (r : Word) : Flags := Flags.setNZ { f with v := r.getLsbD 50 } r

/-- The shifts write c n z (R142). -/
def Flags.afterShift (f : Flags) (carry : Bool) (r : Word) : Flags := Flags.setNZ { f with c := carry } r

/-- The last bit moved out by a shift of a by n, 1 ≤ n ≤ 51 (R142 to R146). -/
def lastBitOut (op : ShiftOp) (a : Word) (n : Nat) : Bool :=
  match op with
  | .asl | .rol => a.getLsbD (52 - n)
  | .lsr | .ror => a.getLsbD (n - 1)

/-- One flag of the image of `SR`: its bit at its place. -/
def flagBit (on : Bool) (place : Fin 52) : Word := if on then 1#52 <<< place.val else 0#52

/-- The 52-bit image of `SR` by a layout: each flag at its bit, every other bit 0 (R29). -/
def Flags.image (l : SrLayout) (f : Flags) : Word :=
  flagBit f.c l.c ||| flagBit f.v l.v ||| flagBit f.n l.n ||| flagBit f.z l.z |||
  flagBit f.i l.i ||| flagBit f.u l.u ||| flagBit f.b l.b ||| flagBit f.d l.d

/-- The flags that an image holds by a layout; the bits with no flag are ignored (R29). -/
def Flags.ofImage (l : SrLayout) (w : Word) : Flags where
  c := w.getLsbD l.c
  v := w.getLsbD l.v
  n := w.getLsbD l.n
  z := w.getLsbD l.z
  i := w.getLsbD l.i
  u := w.getLsbD l.u
  b := w.getLsbD l.b
  d := w.getLsbD l.d

/-- SEP and REP: the flags of c v n z i u whose bit of the seven-bit mask is 1 become `on`; b and d are never written (R198, R199).
A place above bit 6 is not reached by the mask. -/
def Flags.setMasked (l : SrLayout) (f : Flags) (mask : BitVec 7) (on : Bool) : Flags :=
  { f with
    c := if mask.getLsbD l.c then on else f.c
    v := if mask.getLsbD l.v then on else f.v
    n := if mask.getLsbD l.n then on else f.n
    z := if mask.getLsbD l.z then on else f.z
    i := if mask.getLsbD l.i then on else f.i
    u := if mask.getLsbD l.u then on else f.u }

end Sys2Proof.Machine
end

