-- ==== Sys2Proof/Machine/Ops.lean ====
section
/-! DEFINITION. The named operations over registers and memory (00_scope.md R8), the stack (43_stack.md R160), taking a trap (60_exceptions.md
R233), the return from one (44_flow.md R175) and the reset event (70_reset_and_hazards.md R250). -/

namespace Sys2Proof.Machine

/-- What a step and a meaning answer. -/
abbrev Result := Host.Outcome State Fault Refusal

/-- Why an access does not go through. -/
inductive Stop where
  | fault (f : Fault)
  | refused (r : Refusal)
deriving DecidableEq, Repr

/-- An answer of the operations below as an outcome of the machine. -/
def finish (x : Except Stop State) : Result :=
  match x with
  | .ok s => .next s
  | .error (.fault f) => .fault f
  | .error (.refused r) => .refused r

/-! ### Registers -/

/-- R1, the accumulator and string count (R22, R23). -/
def acc : Reg := 1#5
/-- R2, the X index register (R22, R23). -/
def xReg : Reg := 2#5
/-- R3, the Y index register (R22, R23). -/
def yReg : Reg := 3#5
/-- R31, the stack pointer (R22, R23, R160). -/
def sp : Reg := 31#5

/-- x[r]: the value of a register; R0 reads as 0 (R8, R21). -/
def State.reg (s : State) (r : Reg) : Word := if r = 0#5 then 0#52 else s.regs[r.toNat]'r.isLt

/-- x[r] <- v: a write to R0 is discarded (R8, R21). -/
def State.setReg (s : State) (r : Reg) (v : Word) : State :=
  if r = 0#5 then s else { s with regs := s.regs.set r.toNat v r.isLt }

/-- The flags replaced. -/
def State.setFlags (s : State) (f : Flags) : State := { s with flags := f }

/-- pc <- t (R8). -/
def State.setPc (s : State) (t : Word) : State := { s with pc := t }

/-- npc: the address of the next instruction in sequence, modulo 2^52 (R8, R24). -/
def State.npc (s : State) (len : Nat) : Word := s.pc + BitVec.ofNat 52 len

/-- pc <- npc, the end of an instruction that transfers no control (R9, R24). -/
def State.advance (s : State) (len : Nat) : State := s.setPc (s.npc len)

/-- SRword(): the 52-bit image of `SR` (R29). -/
def State.srWord (s : State) : Word := s.flags.image config.srLayout

/-- SR <- word: all eight flags from an image (R29). -/
def State.loadSr (s : State) (w : Word) : State := s.setFlags (Flags.ofImage config.srLayout w)

/-! ### Memory -/

/-- Whether an access to an address goes through, by MEM_MAP (R59; log 14). -/
def checkAddr (a : Word) : Except Stop Unit :=
  match addrKind config.memMap a.toNat with
  | .memory => .ok ()
  | .device => .error (.refused (.deviceAccess a))
  | .nothing => .error (.fault (.unmapped a))

/-- Whether a 52-bit data access at an address goes through, by MISALIGNED_WORD (R56; log 11). -/
def checkAlign (a : Word) : Except Stop Unit :=
  if a.toNat % 4 = 0 then .ok ()
  else match config.misalignedWord with
    | .split => .ok ()
    | .refuse => .error (.refused (.misalignedWord a))

/-- Whether a 52-bit data access goes through: its alignment, then each of its four addresses. -/
def checkWord (a : Word) : Except Stop Unit := do
  checkAlign a
  checkAddr a
  checkAddr (a + 1#52)
  checkAddr (a + 2#52)
  checkAddr (a + 3#52)

/-- The byte of memory at an address. -/
def State.byteAt (s : State) (a : Word) : Byte := s.mem.readByte a.toNat

/-- The word of memory at an address, little-endian and wrapping (R51 to R53). -/
def State.wordAt (s : State) (a : Word) : Word := s.mem.readWord a

/-- One byte of memory replaced; the value it held is noted for R64, unless it stays the same or is noted already (log 15). -/
def State.putByte (s : State) (a : Word) (v : Byte) : State :=
  let old := s.byteAt a
  { s with
    mem := s.mem.writeByte a.toNat v
    overwritten := if old = v ∨ (a.toNat, old) ∈ s.overwritten then s.overwritten
      else (a.toNat, old) :: s.overwritten }

/-- The four bytes of a word replaced, lowest address first (R54). -/
def State.putWord (s : State) (a : Word) (v : Word) : State :=
  (((s.putByte a (byteOfWord v 0)).putByte (a + 1#52) (byteOfWord v 1)).putByte (a + 2#52) (byteOfWord v 2)).putByte
    (a + 3#52) (byteOfWord v 3)

/-- MemRead(a, 1) (R53). -/
def State.loadByte (s : State) (a : Word) : Except Stop Byte := do
  checkAddr a
  return s.byteAt a

/-- MemRead(a, 4) (R53, R56). -/
def State.loadWord (s : State) (a : Word) : Except Stop Word := do
  checkWord a
  return s.wordAt a

/-- MemWrite(a, 1, v) (R54). -/
def State.storeByte (s : State) (a : Word) (v : Byte) : Except Stop State := do
  checkAddr a
  return s.putByte a v

/-- MemWrite(a, 4, v) (R54, R56). -/
def State.storeWord (s : State) (a : Word) (v : Word) : Except Stop State := do
  checkWord a
  return s.putWord a v

/-! ### The stack (R160) -/

/-- push52(v): x[31] <- x[31] - 4, then MemWrite(x[31], 4, v). -/
def State.push (s : State) (v : Word) : Except Stop State :=
  let s1 := s.setReg sp (s.reg sp - 4#52)
  s1.storeWord (s1.reg sp) v

/-- pop52(): t = MemRead(x[31], 4), then x[31] <- x[31] + 4; the answer is t and the state. -/
def State.pull (s : State) : Except Stop (Word × State) := do
  let t ← s.loadWord (s.reg sp)
  return (t, s.setReg sp (s.reg sp + 4#52))

/-! ### Traps and reset -/

/-- TrapEntry(vec, ret, bval), in R233's order: `b`, the two pushes, `i`, the handler's address from the vector, running. -/
def State.trapEntry (s : State) (vec ret : Word) (bval : Bool) : Except Stop State := do
  let s1 := s.setFlags { s.flags with b := bval }
  let s2 ← s1.push ret
  let s3 ← s2.push s2.srWord
  let s4 := s3.setFlags { s3.flags with i := true }
  let handler ← s4.loadWord vec
  return { s4 with pc := handler, run := .running }

/-- RTI's return from a trap: SR <- pop52(), then pc <- pop52() (R175, R240). -/
def State.trapReturn (s : State) : Except Stop State := do
  let (image, s1) ← s.pull
  let s2 := s1.loadSr image
  let (target, s3) ← s2.pull
  return s3.setPc target

/-- Reset() at a given start address: `i` = 1, `b` = 0, pc at the start, running, and nothing else (R250, R251). -/
def State.resetTo (s : State) (start : Word) : State :=
  { s.setFlags { s.flags with i := true, b := false } with pc := start, run := .running }

/-- Reset(): the start address is the word at VEC_RST (R250). -/
def State.resetEvent (s : State) : Except Stop State := do
  let start ← s.loadWord config.vecRst
  return s.resetTo start

end Sys2Proof.Machine
end

