-- ==== Sys2Proof/Machine/Fetch.lean ====
section
/-! DEFINITION. Instruction fetch (20_memory.md R57, R64; 30_encoding.md R103) and the placing of an instruction for withFetchWord. -/

namespace Sys2Proof.Machine

/-- The bytes that stores have replaced at an address (R64). -/
def State.oldBytes (s : State) (a : Word) : List Byte :=
  (s.overwritten.filter (fun c => decide (c.1 = a.toNat))).map Prod.snd

/-- What a fetch sees at an address: the byte of memory; where a store has changed it, a FREE CHOICE among that byte and those it has
replaced, since neither the old nor the new byte has a source (R64, U4; log 15). -/
def State.fetchView (s : State) (a : Word) : Byte :=
  match s.oldBytes a with
  | [] => s.byteAt a
  | old :: olds =>
    let seen := s.byteAt a :: old :: olds
    seen.getD (Config.freeFetchChoice s.tick a % seen.length) (s.byteAt a)

/-- n bytes fetched from an address on, modulo 2^52, lowest address first (R57). -/
def State.fetchFrom (s : State) : Nat → Word → Except Stop (List Byte)
  | 0, _ => .ok []
  | n + 1, a => do
    checkAddr a
    let rest ← s.fetchFrom n (a + 1#52)
    return s.fetchView a :: rest

/-- The bytes of the instruction at pc: byte pc, whose opcode gives the length, then the others (R57, R103); byte pc alone where the
opcode is unassigned. -/
def State.fetchBytes (s : State) : Except Stop (List Byte) := do
  checkAddr s.pc
  s.fetchFrom ((opcodeLength (opcodeOfByte (s.fetchView s.pc))).getD 1) s.pc

/-- Fetches, decodes and runs the instruction at pc: `run` is its meaning, given the state with the tick moved on (log 9). An
encoding with no meaning is refused (R101; log 24). -/
def State.runFetched (s : State) (run : Instr → State → Result) : Result :=
  match s.fetchBytes with
  | .error stop => finish (.error stop)
  | .ok bytes =>
    match decode bytes with
    | .error _ => .refused .unassignedEncoding
    | .ok i => run i { s with tick := s.tick + 1 }

/-- One byte placed in memory from outside the machine: no store of the core, so nothing is noted for R64 and what was noted at this
address is forgotten. -/
def State.placeByte (s : State) (a : Word) (b : Byte) : State :=
  { s with
    mem := s.mem.writeByte a.toNat b
    overwritten := s.overwritten.filter (fun c => !decide (c.1 = a.toNat)) }

/-- Bytes placed in memory from outside the machine, from an address on, modulo 2^52. -/
def State.placeBytes (s : State) : Word → List Byte → State
  | _, [] => s
  | a, b :: bs => (s.placeByte a b).placeBytes (a + 1#52) bs

end Sys2Proof.Machine
end

