-- ==== Sys2Proof/Machine/Boundary.lean ====
section
/-! DEFINITION. The instruction boundary (60_exceptions.md R236 to R239): which input is answered, or that the instruction at pc runs. -/

namespace Sys2Proof.Machine

/-- The inputs at this boundary: the next entry of the list, all false when it has run out (R236; log 16). -/
def State.inputsNow (s : State) : Inputs := s.inputs.headD { rst := false, nmi := false, irq := false }

/-- boundary(rst, nmi, irq) of R236, in its order of tests: rst, stopped, nmi, an unmasked irq, a masked irq that ends a wait, the
instruction at pc if running, and else nothing (a wait that goes on; log 17). The boundary's entry of the input list is used up. -/
def State.boundary (s : State) (run : Instr → State → Result) : Result :=
  let now := s.inputsNow
  let s1 := { s with inputs := s.inputs.tail }
  if now.rst then finish s1.resetEvent
  else if s1.run = .stopped then .next s1
  else if now.nmi then finish (s1.trapEntry config.vecNmi s1.pc false)
  else if now.irq && !s1.flags.i then finish (s1.trapEntry config.vecIrq s1.pc false)
  else if now.irq && s1.run = .waiting then .next { s1 with run := .running }
  else if s1.run = .running then s1.runFetched run
  else .next s1

end Sys2Proof.Machine
end

