-- ==== Sys2Proof/Machine/Operands.lean ====
section
/-! DEFINITION. Every operand form: widening of fields (30_encoding.md R93, R95), effective addresses (42_load_store.md R150), jump and
branch targets (44_flow.md R170, R178), and the result of the shifts (41_shift.md R143 to R146). -/

namespace Sys2Proof.Machine

/-- A field of n bits widened to 52, by sign or by zero (R8). -/
def widen {n : Nat} (e : Ext) (v : BitVec n) : Word :=
  match e with
  | .sign => v.signExtend 52
  | .zero => v.setWidth 52

/-- ext_N: Imm9, Imm23, Imm36, Disp9, Disp23, Addr36, widened by IMM_EXT (R93). -/
def extImm {n : Nat} (v : BitVec n) : Word := widen config.immExt v

/-- The byte LDB and CMPSB read, widened by LDB_EXT (R152, R218). -/
def extByte (b : Byte) : Word := widen config.ldbExt b

/-- The byte STB and STSB store: the low 13 bits (R154, R221). -/
def lowByte (v : Word) : Byte := v.extractLsb' 0 13

/-- Indexed address x[Ra] + x[Rb], modulo 2^52 (R150). -/
def State.indexed (s : State) (ra rb : Reg) : Word := s.reg ra + s.reg rb

/-- Register indirect with displacement, x[Ra] + ext(d), modulo 2^52 (R150). -/
def State.displaced {n : Nat} (s : State) (ra : Reg) (d : BitVec n) : Word := s.reg ra + extImm d

/-- JMP and JSR abs46: the upper six bits of the pc of this instruction, then Address46 (R170; log 30). -/
def State.absTarget (s : State) (addr : BitVec 46) : Word := s.pc.extractLsb' 46 6 ++ addr

/-- The target of a branch: its base by BRANCH_BASE plus the sign-extended displacement in bytes (R95, R178). -/
def State.branchTarget {n : Nat} (s : State) (len : Nat) (d : BitVec n) : Word :=
  match config.branchBase with
  | .nextInstruction => s.npc len + d.signExtend 52
  | .branchItself => s.pc + d.signExtend 52

/-- The register result of a shift of a by n, 0 ≤ n ≤ 51 (R143 to R146). -/
def shiftResult (op : ShiftOp) (a : Word) (n : Nat) : Word :=
  match op with
  | .asl => a <<< n
  | .rol => if n = 0 then a else (a <<< n) ||| (a >>> (52 - n))
  | .lsr => a >>> n
  | .ror => if n = 0 then a else (a >>> n) ||| (a <<< (52 - n))

end Sys2Proof.Machine
end

