-- ==== Sys2Proof/Machine/Alu.lean ====
section
/-! DEFINITION. ADD, CMP, SUB, BIT, AND, OR, EOR (40_alu.md R120 to R128). -/

namespace Sys2Proof.Machine

/-- ADD's pseudocode over its two operands (R121). -/
def aluAdd (s : State) (rt : Reg) (a b : Word) (len : Nat) : Result :=
  .next (((s.setReg rt (a + b)).setFlags (s.flags.afterAdd a b)).advance len)

/-- SUB's pseudocode over its two operands (R122). -/
def aluSub (s : State) (rt : Reg) (a b : Word) (len : Nat) : Result :=
  .next (((s.setReg rt (a - b)).setFlags (s.flags.afterSub a b)).advance len)

/-- CMP's pseudocode: no register, and `v` unchanged (R123). -/
def aluCmp (s : State) (a b : Word) (len : Nat) : Result :=
  .next ((s.setFlags (s.flags.afterCmp a b)).advance len)

/-- BIT's pseudocode: no register (R125). -/
def aluBit (s : State) (a b : Word) (len : Nat) : Result :=
  .next ((s.setFlags (s.flags.afterBit (a &&& b))).advance len)

/-- The result of AND, OR, EOR written to Rt, with n and z from it (R124, R126, R127). -/
def aluLogic (s : State) (rt : Reg) (r : Word) (len : Nat) : Result :=
  .next (((s.setReg rt r).setFlags (s.flags.setNZ r)).advance len)

/-- ADD, format RR (R121, R120). -/
def execAddRR (rt ra rb : Reg) (s : State) : Result := aluAdd s rt (s.reg ra) (s.reg rb) 2

/-- ADD, format RI9 (R121, R120). -/
def execAddRI9 (rt ra : Reg) (imm : BitVec 9) (s : State) : Result := aluAdd s rt (s.reg ra) (extImm imm) 2

/-- ADD, format RI23 (R121, R120). -/
def execAddRI23 (rt ra : Reg) (imm : BitVec 23) (s : State) : Result := aluAdd s rt (s.reg ra) (extImm imm) 3

/-- ADD, format RI36 (R121, R120). -/
def execAddRI36 (rt ra : Reg) (imm : BitVec 36) (s : State) : Result := aluAdd s rt (s.reg ra) (extImm imm) 4

/-- CMP, format RR (R123, R120). -/
def execCmpRR (ra rb : Reg) (s : State) : Result := aluCmp s (s.reg ra) (s.reg rb) 2

/-- CMP, format RI9 (R123, R120). -/
def execCmpRI9 (ra : Reg) (imm : BitVec 9) (s : State) : Result := aluCmp s (s.reg ra) (extImm imm) 2

/-- CMP, format RI23 (R123, R120). -/
def execCmpRI23 (ra : Reg) (imm : BitVec 23) (s : State) : Result := aluCmp s (s.reg ra) (extImm imm) 3

/-- CMP, format RI36 (R123, R120). -/
def execCmpRI36 (ra : Reg) (imm : BitVec 36) (s : State) : Result := aluCmp s (s.reg ra) (extImm imm) 4

/-- SUB, format RR (R122, R120). -/
def execSubRR (rt ra rb : Reg) (s : State) : Result := aluSub s rt (s.reg ra) (s.reg rb) 2

/-- SUB, format RI9 (R122, R120). -/
def execSubRI9 (rt ra : Reg) (imm : BitVec 9) (s : State) : Result := aluSub s rt (s.reg ra) (extImm imm) 2

/-- SUB, format RI23 (R122, R120). -/
def execSubRI23 (rt ra : Reg) (imm : BitVec 23) (s : State) : Result := aluSub s rt (s.reg ra) (extImm imm) 3

/-- SUB, format RI36 (R122, R120). -/
def execSubRI36 (rt ra : Reg) (imm : BitVec 36) (s : State) : Result := aluSub s rt (s.reg ra) (extImm imm) 4

/-- BIT, format RR (R125, R120). -/
def execBitRR (ra rb : Reg) (s : State) : Result := aluBit s (s.reg ra) (s.reg rb) 2

/-- BIT, format RI9 (R125, R120). -/
def execBitRI9 (ra : Reg) (imm : BitVec 9) (s : State) : Result := aluBit s (s.reg ra) (extImm imm) 2

/-- BIT, format RI23 (R125, R120). -/
def execBitRI23 (ra : Reg) (imm : BitVec 23) (s : State) : Result := aluBit s (s.reg ra) (extImm imm) 3

/-- BIT, format RI36 (R125, R120). -/
def execBitRI36 (ra : Reg) (imm : BitVec 36) (s : State) : Result := aluBit s (s.reg ra) (extImm imm) 4

/-- AND, format RR (R124, R120). -/
def execAndRR (rt ra rb : Reg) (s : State) : Result := aluLogic s rt (s.reg ra &&& s.reg rb) 2

/-- AND, format RI9 (R124, R120). -/
def execAndRI9 (rt ra : Reg) (imm : BitVec 9) (s : State) : Result := aluLogic s rt (s.reg ra &&& extImm imm) 2

/-- AND, format RI23 (R124, R120). -/
def execAndRI23 (rt ra : Reg) (imm : BitVec 23) (s : State) : Result := aluLogic s rt (s.reg ra &&& extImm imm) 3

/-- AND, format RI36 (R124, R120). -/
def execAndRI36 (rt ra : Reg) (imm : BitVec 36) (s : State) : Result := aluLogic s rt (s.reg ra &&& extImm imm) 4

/-- OR, format RR (R126, R120). -/
def execOrRR (rt ra rb : Reg) (s : State) : Result := aluLogic s rt (s.reg ra ||| s.reg rb) 2

/-- OR, format RI9 (R126, R120). -/
def execOrRI9 (rt ra : Reg) (imm : BitVec 9) (s : State) : Result := aluLogic s rt (s.reg ra ||| extImm imm) 2

/-- OR, format RI23 (R126, R120). -/
def execOrRI23 (rt ra : Reg) (imm : BitVec 23) (s : State) : Result := aluLogic s rt (s.reg ra ||| extImm imm) 3

/-- OR, format RI36 (R126, R120). -/
def execOrRI36 (rt ra : Reg) (imm : BitVec 36) (s : State) : Result := aluLogic s rt (s.reg ra ||| extImm imm) 4

/-- EOR, format RR (R127, R120). -/
def execEorRR (rt ra rb : Reg) (s : State) : Result := aluLogic s rt (s.reg ra ^^^ s.reg rb) 2

/-- EOR, format RI9 (R127, R120). -/
def execEorRI9 (rt ra : Reg) (imm : BitVec 9) (s : State) : Result := aluLogic s rt (s.reg ra ^^^ extImm imm) 2

/-- EOR, format RI23 (R127, R120). -/
def execEorRI23 (rt ra : Reg) (imm : BitVec 23) (s : State) : Result := aluLogic s rt (s.reg ra ^^^ extImm imm) 3

/-- EOR, format RI36 (R127, R120). -/
def execEorRI36 (rt ra : Reg) (imm : BitVec 36) (s : State) : Result := aluLogic s rt (s.reg ra ^^^ extImm imm) 4

end Sys2Proof.Machine
end

