-- ==== Sys2Proof/Machine/Flow.lean ====
section
/-! DEFINITION. JMP, JSR, RTS, RTI, NOP, the conditional branches and BRA (44_flow.md R170 to R183). -/

namespace Sys2Proof.Machine

/-- JMP abs46: the low 46 bits of the pc are replaced (R170). -/
def execJmpAbs46 (addr : BitVec 46) (s : State) : Result := .next (s.setPc (s.absTarget addr))

/-- JSR abs46: push52(npc), then the jump (R172). -/
def execJsrAbs46 (addr : BitVec 46) (s : State) : Result :=
  finish do
    let s1 ← s.push (s.npc 4)
    return s1.setPc (s1.absTarget addr)

/-- JMP [Ra]: all 52 bits of the pc from the register; memory is not read (R171). -/
def execJmpReg (ra : Reg) (s : State) : Result := .next (s.setPc (s.reg ra))

/-- JSR [Ra]: push52(npc), then the register is read, in the source's order (R173; log 22). -/
def execJsrReg (ra : Reg) (s : State) : Result :=
  finish do
    let s1 ← s.push (s.npc 1)
    return s1.setPc (s1.reg ra)

/-- RTS: pc <- pop52() (R174). -/
def execRts (s : State) : Result :=
  finish do
    let (target, s1) ← s.pull
    return s1.setPc target

/-- RTI: the return from a trap (R175). -/
def execRti (s : State) : Result := finish s.trapReturn

/-- NOP (R176). -/
def execNop (s : State) : Result := .next (s.advance 1)

/-- A conditional branch of a length: to its target if the condition holds, else to the next instruction (R179, R180). -/
def branchIf {n : Nat} (s : State) (cond : Bool) (len : Nat) (disp : BitVec n) : Result :=
  .next (if cond then s.setPc (s.branchTarget len disp) else s.advance len)

/-- BEQ, 4-bit displacement: taken when z = 1 (R177, R179). -/
def execBeqD4 (disp : BitVec 4) (s : State) : Result := branchIf s s.flags.z 1 disp

/-- BNE, 4-bit displacement: taken when z = 0 (R177, R179). -/
def execBneD4 (disp : BitVec 4) (s : State) : Result := branchIf s (!s.flags.z) 1 disp

/-- BPL, 4-bit displacement: taken when n = 0 (R177, R179). -/
def execBplD4 (disp : BitVec 4) (s : State) : Result := branchIf s (!s.flags.n) 1 disp

/-- BMI, 4-bit displacement: taken when n = 1 (R177, R179). -/
def execBmiD4 (disp : BitVec 4) (s : State) : Result := branchIf s s.flags.n 1 disp

/-- BVS, 4-bit displacement: taken when v = 1 (R177, R179). -/
def execBvsD4 (disp : BitVec 4) (s : State) : Result := branchIf s s.flags.v 1 disp

/-- BVC, 4-bit displacement: taken when v = 0 (R177, R179). -/
def execBvcD4 (disp : BitVec 4) (s : State) : Result := branchIf s (!s.flags.v) 1 disp

/-- BCS, 4-bit displacement: taken when c = 1 (R177, R179). -/
def execBcsD4 (disp : BitVec 4) (s : State) : Result := branchIf s s.flags.c 1 disp

/-- BCC, 4-bit displacement: taken when c = 0 (R177, R179). -/
def execBccD4 (disp : BitVec 4) (s : State) : Result := branchIf s (!s.flags.c) 1 disp

/-- BEQ, 17-bit displacement: taken when z = 1 (R177, R180). -/
def execBeqD17 (disp : BitVec 17) (s : State) : Result := branchIf s s.flags.z 2 disp

/-- BNE, 17-bit displacement: taken when z = 0 (R177, R180). -/
def execBneD17 (disp : BitVec 17) (s : State) : Result := branchIf s (!s.flags.z) 2 disp

/-- BPL, 17-bit displacement: taken when n = 0 (R177, R180). -/
def execBplD17 (disp : BitVec 17) (s : State) : Result := branchIf s (!s.flags.n) 2 disp

/-- BMI, 17-bit displacement: taken when n = 1 (R177, R180). -/
def execBmiD17 (disp : BitVec 17) (s : State) : Result := branchIf s s.flags.n 2 disp

/-- BVS, 17-bit displacement: taken when v = 1 (R177, R180). -/
def execBvsD17 (disp : BitVec 17) (s : State) : Result := branchIf s s.flags.v 2 disp

/-- BVC, 17-bit displacement: taken when v = 0 (R177, R180). -/
def execBvcD17 (disp : BitVec 17) (s : State) : Result := branchIf s (!s.flags.v) 2 disp

/-- BCS, 17-bit displacement: taken when c = 1 (R177, R180). -/
def execBcsD17 (disp : BitVec 17) (s : State) : Result := branchIf s s.flags.c 2 disp

/-- BCC, 17-bit displacement: taken when c = 0 (R177, R180). -/
def execBccD17 (disp : BitVec 17) (s : State) : Result := branchIf s (!s.flags.c) 2 disp

/-- BRA, 4-bit displacement: always taken (R181). -/
def execBraD4 (disp : BitVec 4) (s : State) : Result := branchIf s true 1 disp

/-- BRA, 17-bit displacement: always taken (R181). -/
def execBraD17 (disp : BitVec 17) (s : State) : Result := branchIf s true 2 disp

end Sys2Proof.Machine
end

