-- ==== Sys2Proof/Machine/LoadStore.lean ====
section
/-! DEFINITION. LD, LDB, ST, STB (42_load_store.md R150 to R154). -/

namespace Sys2Proof.Machine

/-- A loaded value to Rt, with n and z from it (R151, R152). -/
def State.loaded (s : State) (rt : Reg) (r : Word) (len : Nat) : State :=
  ((s.setReg rt r).setFlags (s.flags.setNZ r)).advance len

/-- LD's pseudocode at an effective address (R151). -/
def loadWordTo (s : State) (rt : Reg) (ea : Word) (len : Nat) : Result :=
  finish do
    let r ← s.loadWord ea
    return s.loaded rt r len

/-- ST's pseudocode at an effective address: no register, no flag (R153). -/
def storeWordFrom (s : State) (rs : Reg) (ea : Word) (len : Nat) : Result :=
  finish do
    let s1 ← s.storeWord ea (s.reg rs)
    return s1.advance len

/-- LD, format RR (R151, R150). -/
def execLdRR (rt ra rb : Reg) (s : State) : Result := loadWordTo s rt (s.indexed ra rb) 2

/-- LD, format RI9 (R151, R150). -/
def execLdRI9 (rt ra : Reg) (disp : BitVec 9) (s : State) : Result := loadWordTo s rt (s.displaced ra disp) 2

/-- LD, format RI23 (R151, R150). -/
def execLdRI23 (rt ra : Reg) (disp : BitVec 23) (s : State) : Result := loadWordTo s rt (s.displaced ra disp) 3

/-- LD, format RI36 (R151, R150). -/
def execLdRI36 (rt ra : Reg) (disp : BitVec 36) (s : State) : Result := loadWordTo s rt (s.displaced ra disp) 4

/-- LDB, format RI36 (R152): the byte widened by LDB_EXT. -/
def execLdbRI36 (rt ra : Reg) (disp : BitVec 36) (s : State) : Result :=
  finish do
    let t ← s.loadByte (s.displaced ra disp)
    return s.loaded rt (extByte t) 4

/-- ST, format RR (R153, R150). -/
def execStRR (rs ra rb : Reg) (s : State) : Result := storeWordFrom s rs (s.indexed ra rb) 2

/-- ST, format RI9 (R153, R150). -/
def execStRI9 (rs ra : Reg) (disp : BitVec 9) (s : State) : Result := storeWordFrom s rs (s.displaced ra disp) 2

/-- ST, format RI23 (R153, R150). -/
def execStRI23 (rs ra : Reg) (disp : BitVec 23) (s : State) : Result := storeWordFrom s rs (s.displaced ra disp) 3

/-- ST, format RI36 (R153, R150). -/
def execStRI36 (rs ra : Reg) (disp : BitVec 36) (s : State) : Result := storeWordFrom s rs (s.displaced ra disp) 4

/-- STB, format RI36 (R154): the low 13 bits of the register, no flag. -/
def execStbRI36 (rs ra : Reg) (disp : BitVec 36) (s : State) : Result :=
  finish do
    let s1 ← s.storeByte (s.displaced ra disp) (lowByte (s.reg rs))
    return s1.advance 4

end Sys2Proof.Machine
end

