-- ==== Sys2Proof/Machine/Shift.lean ====
section
/-! DEFINITION. ASL, ROL, LSR, ROR (41_shift.md R140 to R146). -/

namespace Sys2Proof.Machine

/-- The register result of a shift of a by a count: the rules' for 0 to 51, a FREE VALUE for 52 and more (R141; log 8). -/
def State.shifted (s : State) (op : ShiftOp) (a count : Word) : Word :=
  if count.toNat < 52 then shiftResult op a count.toNat
  else Config.freeShiftResult op a count s.tick

/-- `c` after a shift (R142): under SHIFT_CARRY's default the last bit moved out for a count of 1 to 51, unchanged for 0; a FREE VALUE
for a count of 52 and more (R141; log 8), and for every count under the other value (U6; log 7). -/
def State.shiftCarry (s : State) (op : ShiftOp) (a count : Word) : Bool :=
  match config.shiftCarry with
  | .anyValue => Config.freeShiftCarry op a count s.tick
  | .lastBitOut =>
    if count.toNat = 0 then s.flags.c
    else if count.toNat < 52 then lastBitOut op a count.toNat
    else Config.freeShiftCarry op a count s.tick

/-- A shift's pseudocode over its operand and count: Rt, then c n z, both from the result (R140 to R146). All are 2 bytes long. -/
def shiftTo (s : State) (op : ShiftOp) (rt : Reg) (a count : Word) : Result :=
  let r := s.shifted op a count
  .next (((s.setReg rt r).setFlags (s.flags.afterShift (s.shiftCarry op a count) r)).advance 2)

/-- The count of format SI6: Imm6, unsigned (R94). -/
def immCount (imm : BitVec 6) : Word := imm.setWidth 52

/-- ASL, format RR: the count is the whole of x[Rb] (R143, R140). -/
def execAslRR (rt ra rb : Reg) (s : State) : Result := shiftTo s .asl rt (s.reg ra) (s.reg rb)

/-- ASL, format SI6 (R143, R140). -/
def execAslSI6 (rt ra : Reg) (imm : BitVec 6) (s : State) : Result := shiftTo s .asl rt (s.reg ra) (immCount imm)

/-- ROL, format RR: the count is the whole of x[Rb] (R144, R140). -/
def execRolRR (rt ra rb : Reg) (s : State) : Result := shiftTo s .rol rt (s.reg ra) (s.reg rb)

/-- ROL, format SI6 (R144, R140). -/
def execRolSI6 (rt ra : Reg) (imm : BitVec 6) (s : State) : Result := shiftTo s .rol rt (s.reg ra) (immCount imm)

/-- LSR, format RR: the count is the whole of x[Rb] (R145, R140). -/
def execLsrRR (rt ra rb : Reg) (s : State) : Result := shiftTo s .lsr rt (s.reg ra) (s.reg rb)

/-- LSR, format SI6 (R145, R140). -/
def execLsrSI6 (rt ra : Reg) (imm : BitVec 6) (s : State) : Result := shiftTo s .lsr rt (s.reg ra) (immCount imm)

/-- ROR, format RR: the count is the whole of x[Rb] (R146, R140). -/
def execRorRR (rt ra rb : Reg) (s : State) : Result := shiftTo s .ror rt (s.reg ra) (s.reg rb)

/-- ROR, format SI6 (R146, R140). -/
def execRorSI6 (rt ra : Reg) (imm : BitVec 6) (s : State) : Result := shiftTo s .ror rt (s.reg ra) (immCount imm)

end Sys2Proof.Machine
end

