-- ==== Sys2Proof/Machine/Stack.lean ====
section
/-! DEFINITION. PHP, PLP, PSH, POP (43_stack.md R160 to R164). -/

namespace Sys2Proof.Machine

/-- PHP: push52(SRword()) (R161). -/
def execPhp (s : State) : Result :=
  finish do
    let s1 ← s.push s.srWord
    return s1.advance 1

/-- PLP: SR <- pop52(), all eight flags (R162). -/
def execPlp (s : State) : Result :=
  finish do
    let (image, s1) ← s.pull
    return (s1.loadSr image).advance 1

/-- PSH: the register is read after the decrement, in the source's order, so PSH R31 stores the decremented pointer (R163; log 22). -/
def execPsh (ra : Reg) (s : State) : Result :=
  finish do
    let s1 := s.setReg sp (s.reg sp - 4#52)
    let s2 ← s1.storeWord (s1.reg sp) (s1.reg ra)
    return s2.advance 1

/-- POP: the register is written before the increment, in the source's order, so POP R31 ends with the value read plus 4 (R164; log 22). -/
def execPop (rt : Reg) (s : State) : Result :=
  finish do
    let r ← s.loadWord (s.reg sp)
    let s1 := s.setReg rt r
    let s2 := s1.setReg sp (s1.reg sp + 4#52)
    return (s2.setFlags (s.flags.setNZ r)).advance 1

end Sys2Proof.Machine
end

