-- ==== Sys2Proof/Machine/Strings.lean ====
section
/-! DEFINITION. MVN, MVP, STS, CMPS and their byte forms (46_string.md R210 to R222): one execution handles one element (R211). -/

namespace Sys2Proof.Machine

/-- Steps X and Y by given amounts and decrements the count, all modulo 2^52; no flag (R212, R214). -/
def State.stepString (s : State) (dx dy : Word) : State :=
  let s1 := s.setReg xReg (s.reg xReg + dx)
  let s2 := s1.setReg yReg (s1.reg yReg + dy)
  s2.setReg acc (s2.reg acc - 1#52)

/-- The end of a move or a fill: the same instruction again unless the count has come to 0 (R211). -/
def State.repeatOrLeave (s : State) : State := if s.reg acc = 0#52 then s.advance 1 else s

/-- One element of a word move; the step is 4 up or down (R214, R215). -/
def moveWord (s : State) (d : Word) : Result :=
  finish do
    let t ← s.loadWord (s.reg xReg)
    let s1 ← s.storeWord (s.reg yReg) t
    return (s1.stepString d d).repeatOrLeave

/-- One element of a byte move; the step is 1 up or down (R219, R220). -/
def moveByte (s : State) (d : Word) : Result :=
  finish do
    let t ← s.loadByte (s.reg xReg)
    let s1 ← s.storeByte (s.reg yReg) t
    return (s1.stepString d d).repeatOrLeave

/-- The end of a compare, after the pointers and the count are stepped: with the count at 0 it leaves without comparing; else c n z are
those of CMP, and it goes on only if the pair is equal (R217, R222). -/
def State.compareOrLeave (s : State) (t1 t2 : Word) : State :=
  if s.reg acc = 0#52 then s.advance 1
  else
    let s1 := s.setFlags (s.flags.afterCmp t1 t2)
    if t1 - t2 = 0#52 then s1 else s1.advance 1

/-- MVN: words, ascending (R214). -/
def execMvn (s : State) : Result := moveWord s 4#52

/-- MVP: words, descending (R215). -/
def execMvp (s : State) : Result := moveWord s (-4#52)

/-- STS: fill words with the value of X (R216). -/
def execSts (s : State) : Result :=
  finish do
    let s1 ← s.storeWord (s.reg yReg) (s.reg xReg)
    return (s1.stepString 0#52 4#52).repeatOrLeave

/-- CMPS: compare words (R217). -/
def execCmps (s : State) : Result :=
  finish do
    let t1 ← s.loadWord (s.reg xReg)
    let t2 ← s.loadWord (s.reg yReg)
    return (s.stepString 4#52 4#52).compareOrLeave t1 t2

/-- MVNB: bytes, ascending (R219). -/
def execMvnb (s : State) : Result := moveByte s 1#52

/-- MVPB: bytes, descending (R220). -/
def execMvpb (s : State) : Result := moveByte s (-1#52)

/-- STSB: fill bytes with the low 13 bits of X (R221). -/
def execStsb (s : State) : Result :=
  finish do
    let s1 ← s.storeByte (s.reg yReg) (lowByte (s.reg xReg))
    return (s1.stepString 0#52 1#52).repeatOrLeave

/-- CMPSB: compare bytes, each widened as LDB widens (R218, R222). -/
def execCmpsb (s : State) : Result :=
  finish do
    let t1 ← s.loadByte (s.reg xReg)
    let t2 ← s.loadByte (s.reg yReg)
    return (s.stepString 1#52 1#52).compareOrLeave (extByte t1) (extByte t2)

end Sys2Proof.Machine
end

