-- ==== Sys2Proof/Machine/System.lean ====
section
/-! DEFINITION. BRK, RST, NMI, IRQ, PFI, WAI, STP, SEP, REP (45_system.md R190 to R200). -/

namespace Sys2Proof.Machine

/-- BRK: TrapEntry(VEC_BRK, npc, 1); Const4 is not used by the hardware (R190; log 36). -/
def execBrk (_const4 : BitVec 4) (s : State) : Result := finish (s.trapEntry config.vecBrk (s.npc 1) true)

/-- RST in program text: TrapEntry(VEC_RST, npc, 0) (R191; log 18). -/
def execRst (s : State) : Result := finish (s.trapEntry config.vecRst (s.npc 1) false)

/-- NMI in program text: TrapEntry(VEC_NMI, npc, 0) (R192; log 18). -/
def execNmi (s : State) : Result := finish (s.trapEntry config.vecNmi (s.npc 1) false)

/-- IRQ in program text: TrapEntry(VEC_IRQ, npc, 0), not masked by `i` (R193; log 18). -/
def execIrq (s : State) : Result := finish (s.trapEntry config.vecIrq (s.npc 1) false)

/-- PFI: a NOP, since the inputs are examined at every boundary (R195; log 20). -/
def execPfi (s : State) : Result := .next (s.advance 1)

/-- WAI: the run state becomes waiting; the next boundaries say how it ends (R196, R236). -/
def execWai (s : State) : Result := .next { s.advance 1 with run := .waiting }

/-- STP: the run state becomes stopped; only rst ends it (R197, R250). -/
def execStp (s : State) : Result := .next { s.advance 1 with run := .stopped }

/-- SEP: the masked flags of c v n z i u become 1 (R198). -/
def execSep (mask : BitVec 7) (s : State) : Result :=
  .next ((s.setFlags (s.flags.setMasked config.srLayout mask true)).advance 1)

/-- REP: the masked flags of c v n z i u become 0 (R199). -/
def execRep (mask : BitVec 7) (s : State) : Result :=
  .next ((s.setFlags (s.flags.setMasked config.srLayout mask false)).advance 1)

end Sys2Proof.Machine
end

