-- ==== Sys2Proof/Machine/Dispatch.lean ====
section
/-! DEFINITION. One arm per instruction, each a call of its meaning. -/

namespace Sys2Proof.Machine

def exec (i : Instr) (s : State) : Host.Outcome State Fault Refusal :=
  match i with
  | .addRR rt ra rb => Sys2Proof.Machine.execAddRR rt ra rb s
  | .addRI9 rt ra imm => Sys2Proof.Machine.execAddRI9 rt ra imm s
  | .addRI23 rt ra imm => Sys2Proof.Machine.execAddRI23 rt ra imm s
  | .addRI36 rt ra imm => Sys2Proof.Machine.execAddRI36 rt ra imm s
  | .cmpRR ra rb => Sys2Proof.Machine.execCmpRR ra rb s
  | .cmpRI9 ra imm => Sys2Proof.Machine.execCmpRI9 ra imm s
  | .cmpRI23 ra imm => Sys2Proof.Machine.execCmpRI23 ra imm s
  | .cmpRI36 ra imm => Sys2Proof.Machine.execCmpRI36 ra imm s
  | .subRR rt ra rb => Sys2Proof.Machine.execSubRR rt ra rb s
  | .subRI9 rt ra imm => Sys2Proof.Machine.execSubRI9 rt ra imm s
  | .subRI23 rt ra imm => Sys2Proof.Machine.execSubRI23 rt ra imm s
  | .subRI36 rt ra imm => Sys2Proof.Machine.execSubRI36 rt ra imm s
  | .bitRR ra rb => Sys2Proof.Machine.execBitRR ra rb s
  | .bitRI9 ra imm => Sys2Proof.Machine.execBitRI9 ra imm s
  | .bitRI23 ra imm => Sys2Proof.Machine.execBitRI23 ra imm s
  | .bitRI36 ra imm => Sys2Proof.Machine.execBitRI36 ra imm s
  | .andRR rt ra rb => Sys2Proof.Machine.execAndRR rt ra rb s
  | .andRI9 rt ra imm => Sys2Proof.Machine.execAndRI9 rt ra imm s
  | .andRI23 rt ra imm => Sys2Proof.Machine.execAndRI23 rt ra imm s
  | .andRI36 rt ra imm => Sys2Proof.Machine.execAndRI36 rt ra imm s
  | .orRR rt ra rb => Sys2Proof.Machine.execOrRR rt ra rb s
  | .orRI9 rt ra imm => Sys2Proof.Machine.execOrRI9 rt ra imm s
  | .orRI23 rt ra imm => Sys2Proof.Machine.execOrRI23 rt ra imm s
  | .orRI36 rt ra imm => Sys2Proof.Machine.execOrRI36 rt ra imm s
  | .eorRR rt ra rb => Sys2Proof.Machine.execEorRR rt ra rb s
  | .eorRI9 rt ra imm => Sys2Proof.Machine.execEorRI9 rt ra imm s
  | .eorRI23 rt ra imm => Sys2Proof.Machine.execEorRI23 rt ra imm s
  | .eorRI36 rt ra imm => Sys2Proof.Machine.execEorRI36 rt ra imm s
  | .aslRR rt ra rb => Sys2Proof.Machine.execAslRR rt ra rb s
  | .aslSI6 rt ra imm => Sys2Proof.Machine.execAslSI6 rt ra imm s
  | .rolRR rt ra rb => Sys2Proof.Machine.execRolRR rt ra rb s
  | .rolSI6 rt ra imm => Sys2Proof.Machine.execRolSI6 rt ra imm s
  | .lsrRR rt ra rb => Sys2Proof.Machine.execLsrRR rt ra rb s
  | .lsrSI6 rt ra imm => Sys2Proof.Machine.execLsrSI6 rt ra imm s
  | .rorRR rt ra rb => Sys2Proof.Machine.execRorRR rt ra rb s
  | .rorSI6 rt ra imm => Sys2Proof.Machine.execRorSI6 rt ra imm s
  | .ldRR rt ra rb => Sys2Proof.Machine.execLdRR rt ra rb s
  | .ldRI9 rt ra disp => Sys2Proof.Machine.execLdRI9 rt ra disp s
  | .ldRI23 rt ra disp => Sys2Proof.Machine.execLdRI23 rt ra disp s
  | .ldRI36 rt ra disp => Sys2Proof.Machine.execLdRI36 rt ra disp s
  | .ldbRI36 rt ra disp => Sys2Proof.Machine.execLdbRI36 rt ra disp s
  | .stRR rs ra rb => Sys2Proof.Machine.execStRR rs ra rb s
  | .stRI9 rs ra disp => Sys2Proof.Machine.execStRI9 rs ra disp s
  | .stRI23 rs ra disp => Sys2Proof.Machine.execStRI23 rs ra disp s
  | .stRI36 rs ra disp => Sys2Proof.Machine.execStRI36 rs ra disp s
  | .stbRI36 rs ra disp => Sys2Proof.Machine.execStbRI36 rs ra disp s
  | .jmpAbs46 addr => Sys2Proof.Machine.execJmpAbs46 addr s
  | .jsrAbs46 addr => Sys2Proof.Machine.execJsrAbs46 addr s
  | .jmpReg ra => Sys2Proof.Machine.execJmpReg ra s
  | .jsrReg ra => Sys2Proof.Machine.execJsrReg ra s
  | .rts => Sys2Proof.Machine.execRts s
  | .rti => Sys2Proof.Machine.execRti s
  | .pfi => Sys2Proof.Machine.execPfi s
  | .wai => Sys2Proof.Machine.execWai s
  | .stp => Sys2Proof.Machine.execStp s
  | .nop => Sys2Proof.Machine.execNop s
  | .rst => Sys2Proof.Machine.execRst s
  | .nmi => Sys2Proof.Machine.execNmi s
  | .irq => Sys2Proof.Machine.execIrq s
  | .brk const4 => Sys2Proof.Machine.execBrk const4 s
  | .beqD4 disp => Sys2Proof.Machine.execBeqD4 disp s
  | .bneD4 disp => Sys2Proof.Machine.execBneD4 disp s
  | .bplD4 disp => Sys2Proof.Machine.execBplD4 disp s
  | .bmiD4 disp => Sys2Proof.Machine.execBmiD4 disp s
  | .bvsD4 disp => Sys2Proof.Machine.execBvsD4 disp s
  | .bvcD4 disp => Sys2Proof.Machine.execBvcD4 disp s
  | .bcsD4 disp => Sys2Proof.Machine.execBcsD4 disp s
  | .bccD4 disp => Sys2Proof.Machine.execBccD4 disp s
  | .beqD17 disp => Sys2Proof.Machine.execBeqD17 disp s
  | .bneD17 disp => Sys2Proof.Machine.execBneD17 disp s
  | .bplD17 disp => Sys2Proof.Machine.execBplD17 disp s
  | .bmiD17 disp => Sys2Proof.Machine.execBmiD17 disp s
  | .bvsD17 disp => Sys2Proof.Machine.execBvsD17 disp s
  | .bvcD17 disp => Sys2Proof.Machine.execBvcD17 disp s
  | .bcsD17 disp => Sys2Proof.Machine.execBcsD17 disp s
  | .bccD17 disp => Sys2Proof.Machine.execBccD17 disp s
  | .braD4 disp => Sys2Proof.Machine.execBraD4 disp s
  | .braD17 disp => Sys2Proof.Machine.execBraD17 disp s
  | .php => Sys2Proof.Machine.execPhp s
  | .plp => Sys2Proof.Machine.execPlp s
  | .psh ra => Sys2Proof.Machine.execPsh ra s
  | .pop rt => Sys2Proof.Machine.execPop rt s
  | .sep mask => Sys2Proof.Machine.execSep mask s
  | .rep mask => Sys2Proof.Machine.execRep mask s
  | .mvnb => Sys2Proof.Machine.execMvnb s
  | .mvpb => Sys2Proof.Machine.execMvpb s
  | .stsb => Sys2Proof.Machine.execStsb s
  | .cmpsb => Sys2Proof.Machine.execCmpsb s
  | .mvn => Sys2Proof.Machine.execMvn s
  | .mvp => Sys2Proof.Machine.execMvp s
  | .sts => Sys2Proof.Machine.execSts s
  | .cmps => Sys2Proof.Machine.execCmps s

end Sys2Proof.Machine
end

