-- ==== Sys2Proof/Machine/Step.lean ====
section
/-! DEFINITION. One step: one instruction boundary with what follows it (00_scope.md R9, 60_exceptions.md R236), and the state in which the
next step runs a given instruction. -/

namespace Sys2Proof.Machine

/-- One step of the machine (R9, R236). -/
def step (s : State) : Host.Outcome State Fault Refusal := s.boundary exec

/-- The state with the instruction of an opcode-table row stored where the next step fetches: its bits in four bytes from pc on, the
first at the lowest address. The core is running and no input is coming, so that step runs it (log 4).
A whole program with its start address is placed by State.start (R251). -/
def State.withFetchWord (s : State) (_nbits w : Nat) : State :=
  { s with run := .running, inputs := [] }.placeBytes s.pc (splitBytes 4 (BitVec.ofNat 52 w))

end Sys2Proof.Machine
end

