-- ==== Sys2Proof/Machine/Start.lean ====
section
/-! DEFINITION. Starting the machine with a program and a start address and no reset vector (70_reset_and_hazards.md R251). -/

namespace Sys2Proof.Machine

/-- A program placed in memory from outside the machine: segments, each an address with its bytes, a later one over an earlier one
(R251, MEM_MAP; log 4). -/
def State.placeProgram (s : State) (program : List (Word × List Byte)) : State :=
  program.foldl (fun s segment => s.placeBytes segment.1 segment.2) s

/-- The registers the harness states, such as a stack pointer in R31 (R251). -/
def State.giveRegs (s : State) (given : List (Reg × Word)) : State :=
  given.foldl (fun s r => s.setReg r.1 r.2) s

/-- R251: Reset() with the vector fetch replaced by the given address, the program placed, the registers the harness states, no input for
ever. Every other register, the flags c v n z u d and the rest of memory are those of s, which may be any state: the rule leaves
them unspecified. The core has stored nothing yet, so nothing is noted as overwritten (log 4). -/
def State.start (s : State) (program : List (Word × List Byte)) (entry : Word) (given : List (Reg × Word)) : State :=
  { (((s.placeProgram program).giveRegs given).resetTo entry) with inputs := [], overwritten := [] }

end Sys2Proof.Machine
end

