-- ==== Sys2Proof/Safety.lean ====
section
/-! DEFINITION. The terms the claims use: what a next state has in common with the state before it, the tables of R27, R23 and R55 (which
flags, which registers and which bytes an instruction may change), what a trap leaves, and the invariant of the machine. -/

namespace Sys2Proof.Machine

/-! ### Frames -/

/-- Every byte of memory reads as before, and nothing more is noted as overwritten. -/
def SameMemory (s t : State) : Prop := (∀ a, t.byteAt a = s.byteAt a) ∧ t.overwritten = s.overwritten

/-- Address b lies outside the n bytes that start at address a, counting modulo 2^52 (R52). -/
def Outside (a : Word) (n : Nat) (b : Word) : Prop := n ≤ (b - a).toNat

/-- Every byte outside the n bytes at address a reads as before. -/
def SameMemoryBut (s t : State) (a : Word) (n : Nat) : Prop := ∀ b, Outside a n b → t.byteAt b = s.byteAt b

/-- Memory holds the word v at address a and is otherwise as before (R54). -/
def StoredWord (s t : State) (a v : Word) : Prop := t.wordAt a = v ∧ SameMemoryBut s t a 4

/-- Memory holds the byte v at address a and is otherwise as before (R54). -/
def StoredByte (s t : State) (a : Word) (v : Byte) : Prop := t.byteAt a = v ∧ SameMemoryBut s t a 1

/-- Every register reads as before. -/
def SameRegs (s t : State) : Prop := ∀ q, t.reg q = s.reg q

/-- Register r reads as v, unless it is R0, which still reads as 0; every other register reads as before (R21). -/
def WroteReg (s t : State) (r : Reg) (v : Word) : Prop :=
  t.reg 0#5 = 0#52 ∧ (r ≠ 0#5 → t.reg r = v) ∧ ∀ q, q ≠ r → t.reg q = s.reg q

/-- The run state, the coming inputs and the tick are as before. -/
def SameRun (s t : State) : Prop := t.run = s.run ∧ t.inputs = s.inputs ∧ t.tick = s.tick

/-- The outcome is a next state, and it satisfies P. -/
def Completes (o : Result) (P : State → Prop) : Prop := ∃ t, o = .next t ∧ P t

/-! ### The tables of the spec -/

/-- Which flags an instruction may write: R27's table (c v n z i u b d, true where the table lists the flag). -/
def flagsWritten : Instr → Flags
  | .addRR _ _ _ | .addRI9 _ _ _ | .addRI23 _ _ _ | .addRI36 _ _ _ | .subRR _ _ _ | .subRI9 _ _ _ | .subRI23 _ _ _
  | .subRI36 _ _ _ => ⟨true, true, true, true, false, false, false, false⟩
  | .cmpRR _ _ | .cmpRI9 _ _ | .cmpRI23 _ _ | .cmpRI36 _ _ | .aslRR _ _ _ | .aslSI6 _ _ _ | .rolRR _ _ _
  | .rolSI6 _ _ _ | .lsrRR _ _ _ | .lsrSI6 _ _ _ | .rorRR _ _ _ | .rorSI6 _ _ _ | .cmpsb | .cmps => ⟨true, false, true, true, false, false, false, false⟩
  | .bitRR _ _ | .bitRI9 _ _ | .bitRI23 _ _ | .bitRI36 _ _ => ⟨false, true, true, true, false, false, false, false⟩
  | .andRR _ _ _ | .andRI9 _ _ _ | .andRI23 _ _ _ | .andRI36 _ _ _ | .orRR _ _ _ | .orRI9 _ _ _ | .orRI23 _ _ _
  | .orRI36 _ _ _ | .eorRR _ _ _ | .eorRI9 _ _ _ | .eorRI23 _ _ _ | .eorRI36 _ _ _ | .ldRR _ _ _ | .ldRI9 _ _ _
  | .ldRI23 _ _ _ | .ldRI36 _ _ _ | .ldbRI36 _ _ _ | .pop _ => ⟨false, false, true, true, false, false, false, false⟩
  | .stRR _ _ _ | .stRI9 _ _ _ | .stRI23 _ _ _ | .stRI36 _ _ _ | .stbRI36 _ _ _ | .jmpAbs46 _ | .jsrAbs46 _
  | .jmpReg _ | .jsrReg _ | .rts | .pfi | .wai | .stp | .nop | .beqD4 _ | .bneD4 _ | .bplD4 _ | .bmiD4 _ | .bvsD4 _
  | .bvcD4 _ | .bcsD4 _ | .bccD4 _ | .beqD17 _ | .bneD17 _ | .bplD17 _ | .bmiD17 _ | .bvsD17 _ | .bvcD17 _
  | .bcsD17 _ | .bccD17 _ | .braD4 _ | .braD17 _ | .php | .psh _ | .mvnb | .mvpb | .stsb | .mvn | .mvp | .sts => ⟨false, false, false, false, false, false, false, false⟩
  | .rti | .plp => ⟨true, true, true, true, true, true, true, true⟩
  | .rst | .nmi | .irq | .brk _ => ⟨false, false, false, false, true, false, true, false⟩
  | .sep _ | .rep _ => ⟨true, true, true, true, true, true, false, false⟩

/-- Which registers an instruction may write: the target its Rt field names, and R23's implicit ones. -/
def regsWritten : Instr → List Reg
  | .addRR rt _ _ | .addRI9 rt _ _ | .addRI23 rt _ _ | .addRI36 rt _ _ | .subRR rt _ _ | .subRI9 rt _ _
  | .subRI23 rt _ _ | .subRI36 rt _ _ | .andRR rt _ _ | .andRI9 rt _ _ | .andRI23 rt _ _ | .andRI36 rt _ _
  | .orRR rt _ _ | .orRI9 rt _ _ | .orRI23 rt _ _ | .orRI36 rt _ _ | .eorRR rt _ _ | .eorRI9 rt _ _
  | .eorRI23 rt _ _ | .eorRI36 rt _ _ | .aslRR rt _ _ | .aslSI6 rt _ _ | .rolRR rt _ _ | .rolSI6 rt _ _
  | .lsrRR rt _ _ | .lsrSI6 rt _ _ | .rorRR rt _ _ | .rorSI6 rt _ _ | .ldRR rt _ _ | .ldRI9 rt _ _ | .ldRI23 rt _ _
  | .ldRI36 rt _ _ | .ldbRI36 rt _ _ => [rt]
  | .cmpRR _ _ | .cmpRI9 _ _ | .cmpRI23 _ _ | .cmpRI36 _ _ | .bitRR _ _ | .bitRI9 _ _ | .bitRI23 _ _ | .bitRI36 _ _
  | .stRR _ _ _ | .stRI9 _ _ _ | .stRI23 _ _ _ | .stRI36 _ _ _ | .stbRI36 _ _ _ | .jmpAbs46 _ | .jmpReg _ | .pfi
  | .wai | .stp | .nop | .beqD4 _ | .bneD4 _ | .bplD4 _ | .bmiD4 _ | .bvsD4 _ | .bvcD4 _ | .bcsD4 _ | .bccD4 _
  | .beqD17 _ | .bneD17 _ | .bplD17 _ | .bmiD17 _ | .bvsD17 _ | .bvcD17 _ | .bcsD17 _ | .bccD17 _ | .braD4 _
  | .braD17 _ | .sep _ | .rep _ => []
  | .jsrAbs46 _ | .jsrReg _ | .rts | .rti | .rst | .nmi | .irq | .brk _ | .php | .plp | .psh _ => [sp]
  | .pop rt => [rt, sp]
  | .mvnb | .mvpb | .cmpsb | .mvn | .mvp | .cmps => [acc, xReg, yReg]
  | .stsb | .sts => [acc, yReg]

/-- Where an instruction stores and how many bytes (R55), by the addresses its meaning computes; none for one that stores nothing. -/
def bytesStored (s : State) : Instr → Option (Word × Nat)
  | .stRR _ ra rb => some (s.indexed ra rb, 4)
  | .stRI9 _ ra disp => some (s.displaced ra disp, 4)
  | .stRI23 _ ra disp => some (s.displaced ra disp, 4)
  | .stRI36 _ ra disp => some (s.displaced ra disp, 4)
  | .stbRI36 _ ra disp => some (s.displaced ra disp, 1)
  | .php | .psh _ | .jsrAbs46 _ | .jsrReg _ => some (s.reg sp - 4#52, 4)
  | .brk _ | .rst | .nmi | .irq => some (s.reg sp - 8#52, 8)
  | .mvn | .mvp | .sts => some (s.reg yReg, 4)
  | .mvnb | .mvpb | .stsb => some (s.reg yReg, 1)
  | .addRR _ _ _ | .addRI9 _ _ _ | .addRI23 _ _ _ | .addRI36 _ _ _ | .cmpRR _ _ | .cmpRI9 _ _ | .cmpRI23 _ _
  | .cmpRI36 _ _ | .subRR _ _ _ | .subRI9 _ _ _ | .subRI23 _ _ _ | .subRI36 _ _ _ | .bitRR _ _ | .bitRI9 _ _
  | .bitRI23 _ _ | .bitRI36 _ _ | .andRR _ _ _ | .andRI9 _ _ _ | .andRI23 _ _ _ | .andRI36 _ _ _ | .orRR _ _ _
  | .orRI9 _ _ _ | .orRI23 _ _ _ | .orRI36 _ _ _ | .eorRR _ _ _ | .eorRI9 _ _ _ | .eorRI23 _ _ _ | .eorRI36 _ _ _
  | .aslRR _ _ _ | .aslSI6 _ _ _ | .rolRR _ _ _ | .rolSI6 _ _ _ | .lsrRR _ _ _ | .lsrSI6 _ _ _ | .rorRR _ _ _
  | .rorSI6 _ _ _ | .ldRR _ _ _ | .ldRI9 _ _ _ | .ldRI23 _ _ _ | .ldRI36 _ _ _ | .ldbRI36 _ _ _ | .jmpAbs46 _
  | .jmpReg _ | .rts | .rti | .pfi | .wai | .stp | .nop | .beqD4 _ | .bneD4 _ | .bplD4 _ | .bmiD4 _ | .bvsD4 _
  | .bvcD4 _ | .bcsD4 _ | .bccD4 _ | .beqD17 _ | .bneD17 _ | .bplD17 _ | .bmiD17 _ | .bvsD17 _ | .bvcD17 _
  | .bcsD17 _ | .bccD17 _ | .braD4 _ | .braD17 _ | .plp | .pop _ | .sep _ | .rep _ | .cmpsb | .cmps => none

/-! ### The status register -/

/-- The 52-bit image of SR under the default SR_LAYOUT, as a sum: c v n z i u b d in bits 0 to 7, nothing above (R29). -/
def imageOf (f : Flags) : Word :=
  BitVec.ofNat 52 (f.c.toNat + 2 * f.v.toNat + 4 * f.n.toNat + 8 * f.z.toNat + 16 * f.i.toNat + 32 * f.u.toNat +
    64 * f.b.toNat + 128 * f.d.toNat)

/-- The eight flags of an image under the default SR_LAYOUT (R29). -/
def flagsOf (w : Word) : Flags :=
  ⟨w.getLsbD 0, w.getLsbD 1, w.getLsbD 2, w.getLsbD 3, w.getLsbD 4, w.getLsbD 5, w.getLsbD 6, w.getLsbD 7⟩

/-! ### Traps -/

/-- What TrapEntry(vec, ret, bval) leaves (R233): R31 is 8 lower, the word there is the image of SR with `b` = bval and the old `i`, the word
4 above it is the return address, `i` = 1 and `b` = bval, no other flag, register or byte has changed, pc is the word at the vector, running. -/
def TrapTaken (s t : State) (vec ret : Word) (bval : Bool) : Prop :=
  WroteReg s t sp (s.reg sp - 8#52) ∧
  t.wordAt (s.reg sp - 8#52) = imageOf { s.flags with b := bval } ∧
  t.wordAt (s.reg sp - 4#52) = ret ∧
  SameMemoryBut s t (s.reg sp - 8#52) 8 ∧
  t.flags = { s.flags with b := bval, i := true } ∧
  t.pc = t.wordAt vec ∧
  t.run = .running ∧ t.inputs = s.inputs ∧ t.tick = s.tick

/-! ### The invariant -/

/-- Memory is in canonical form, the slot of R0 holds 0, and every note of an overwritten byte is at an address of the memory. -/
def State.Inv (s : State) : Prop :=
  s.mem.wf = true ∧ s.regs[0] = 0#52 ∧ ∀ c ∈ s.overwritten, c.1 < 2 ^ 52

/-- Address b lies outside every segment of a program. -/
def OutsideProgram (program : List (Word × List Byte)) (b : Word) : Prop :=
  ∀ segment ∈ program, Outside segment.1 segment.2.length b

/-- No input is asserted at this boundary (R236). -/
def State.quiet (s : State) : Prop := s.inputsNow = { rst := false, nmi := false, irq := false }

end Sys2Proof.Machine
end

