-- ==== Sys2Proof/Certificates/Slice0/Obligations.lean ====
section
/-! DEFINITION. The statements for the provers. Every meaning is taken under this machine's parameters (Machine/Platform.lean). -/

open Sys2Proof Sys2Proof.Machine

namespace Sys2Proof.Claims

/-- The instruction completes: it writes register rt, the flags become f, pc moves on by len, and nothing else changes. -/
def Wrote (s : State) (o : Result) (rt : Reg) (r : Word) (f : Flags) (len : Word) : Prop :=
  Completes o fun t =>
    WroteReg s t rt r ∧ t.flags = f ∧ t.pc = s.pc + len ∧ SameMemory s t ∧ SameRun s t

/-- The instruction completes: it writes no register, the flags become f, pc becomes target, and nothing else changes. -/
def OnlyFlagsAndPc (s : State) (o : Result) (f : Flags) (target : Word) : Prop :=
  Completes o fun t => SameRegs s t ∧ t.flags = f ∧ t.pc = target ∧ SameMemory s t ∧ SameRun s t

/-- n and z of a result (R26). -/
def nz (f : Flags) (r : Word) : Flags := { f with n := r.getLsbD 51, z := decide (r = 0#52) }

/-- v c n z of a sum: `c` is the unsigned outcome and `v` the signed one (R28, R128). -/
def sumFlags (f : Flags) (a b : Word) : Flags :=
  nz { f with
    c := decide (2 ^ 52 ≤ a.toNat + b.toNat)
    v := decide (a.toInt + b.toInt < -2 ^ 51 ∨ 2 ^ 51 ≤ a.toInt + b.toInt) } (a + b)

/-- v c n z of a difference: `c` is 1 when there is no borrow (SUB_CARRY's default), `v` is signed overflow (R28, R128). -/
def differenceFlags (f : Flags) (a b : Word) : Flags :=
  nz { f with
    c := decide (b.toNat ≤ a.toNat)
    v := decide (a.toInt - b.toInt < -2 ^ 51 ∨ 2 ^ 51 ≤ a.toInt - b.toInt) } (a - b)

/-- c n z of a comparison; `v` stays (R123). -/
def compareFlags (f : Flags) (a b : Word) : Flags := nz { f with c := decide (b.toNat ≤ a.toNat) } (a - b)

/-- v n z of a bit test: `v` is bit 50 of the result (R125). -/
def bitTestFlags (f : Flags) (r : Word) : Flags := nz { f with v := r.getLsbD 50 } r

/-- c n z of a shift by n, with the bit moved out as `c`, unchanged for a count of 0 (R142, SHIFT_CARRY's default). -/
def shiftFlags (f : Flags) (n : Nat) (out : Bool) (r : Word) : Flags := nz { f with c := if n = 0 then f.c else out } r

/-- A shift by 52 or more completes with SOME result r and SOME carry: Rt, n and z are those of that r (R141; log 8). -/
def WideShift (s : State) (o : Result) (rt : Reg) : Prop :=
  ∃ (r : Word) (carry : Bool), Wrote s o rt r (nz { s.flags with c := carry } r) 2#52

/-- The store completes: word v at address a, pc moved on by len, no register, no flag (R153). -/
def StoreDone (s : State) (o : Result) (a v len : Word) : Prop :=
  Completes o fun t => StoredWord s t a v ∧ SameRegs s t ∧ t.flags = s.flags ∧ t.pc = s.pc + len ∧ SameRun s t

/-- A push completes: word v at R31 - 4, R31 lower by 4, pc becomes target, no flag (R160). -/
def PushDone (s : State) (o : Result) (v target : Word) : Prop :=
  Completes o fun t =>
    StoredWord s t (s.reg sp - 4#52) v ∧ WroteReg s t sp (s.reg sp - 4#52) ∧ t.flags = s.flags ∧ t.pc = target ∧ SameRun s t

/-- One element of a string instruction completes: X, Y and the count become these, no other register changes, the flags become f, and
pc becomes target (R211). -/
def ElementDone (s : State) (o : Result) (x y : Word) (f : Flags) (target : Word) (memory : State → Prop) : Prop :=
  Completes o fun t =>
    t.reg acc = s.reg acc - 1#52 ∧ t.reg xReg = x ∧ t.reg yReg = y ∧
    (∀ q, q ≠ acc → q ≠ xReg → q ≠ yReg → t.reg q = s.reg q) ∧
    t.flags = f ∧ t.pc = target ∧ memory t ∧ SameRun s t

/-- Where a move or a fill goes on: at itself unless this was the last element (R211). -/
def afterElement (s : State) : Word := if s.reg acc = 1#52 then s.pc + 1#52 else s.pc

/-- Where a compare goes on: at itself while the count is not used up and the pair was equal (R217). -/
def afterCompare (s : State) (t1 t2 : Word) : Word := if s.reg acc = 1#52 ∨ t1 ≠ t2 then s.pc + 1#52 else s.pc

/-- The flags after a compare: unchanged when the count is used up, else CMP's (R217). -/
def elementFlags (s : State) (t1 t2 : Word) : Flags :=
  if s.reg acc = 1#52 then s.flags else compareFlags s.flags t1 t2

/-- A branch of the given length completes: pc becomes the next instruction's address plus the signed displacement when the condition holds,
else the next instruction's address, and nothing else changes (R178 to R180). -/
def Branches {n : Nat} (s : State) (o : Result) (taken : Prop) [Decidable taken] (len : Nat) (d : BitVec n) : Prop :=
  OnlyFlagsAndPc s o s.flags
    (if taken then BitVec.ofInt 52 (s.pc.toNat + len + d.toInt) else BitVec.ofNat 52 (s.pc.toNat + len))

/-- The flags of c v n z i u whose bit of the mask is 1 become `on`, under the default SR_LAYOUT; bit 6 selects nothing (R198, R199, R200). -/
def maskedFlags (f : Flags) (m : BitVec 7) (on : Bool) : Flags :=
  { f with
    c := if m.getLsbD 0 then on else f.c
    v := if m.getLsbD 1 then on else f.v
    n := if m.getLsbD 2 then on else f.n
    z := if m.getLsbD 3 then on else f.z
    i := if m.getLsbD 4 then on else f.i
    u := if m.getLsbD 5 then on else f.u }

/-- The unassigned first bytes of R101: an unassigned root opcode, or an unassigned function or condition in bits 8..6. -/
def unassigned (b0 : Byte) : Prop :=
  let op := (b0.extractLsb' 0 6).toNat
  let fn := (b0.extractLsb' 6 3).toNat
  op ∈ [0o03, 0o13, 0o23, 0o33, 0o43, 0o53, 0o63, 0o73, 0o07, 0o17, 0o27, 0o37, 0o47, 0o57, 0o67, 0o77, 0o20, 0o21, 0o22, 0o55] ∨
  (op = 0o24 ∧ (fn = 3 ∨ fn = 5)) ∨ (op = 0o34 ∧ 4 ≤ fn) ∨ ((op = 0o25 ∨ op = 0o35) ∧ 1 ≤ fn)

/-- The length table of R81. -/
def lengthTable (op : Nat) : Option Nat :=
  if op ∈ [0o00, 0o10, 0o30, 0o40, 0o50, 0o60, 0o70, 0o06, 0o16, 0o26, 0o36, 0o15, 0o35] then some 2
  else if op ∈ [0o01, 0o11, 0o31, 0o41, 0o51, 0o61, 0o71] then some 3
  else if op ∈ [0o02, 0o12, 0o32, 0o42, 0o52, 0o62, 0o72, 0o04, 0o14, 0o64, 0o74] then some 4
  else if op ∈ [0o24, 0o34, 0o44, 0o54, 0o05, 0o25, 0o45, 0o65, 0o75, 0o46, 0o56, 0o66, 0o76] then some 1
  else none

end Sys2Proof.Claims

open Sys2Proof.Claims

/-- Decode and encode agree, whatever bytes follow (R82 to R92, R103). -/
def Obligations.DecodeEncodeAgree : Prop :=
  ∀ (i : Instr) (rest : List Byte), i.wellFormed = true → decode (encode i ++ rest) = .ok i

/-- What the decoder answers is well-formed and as long as its opcode says (R81, R100). -/
def Obligations.DecodedIsWellFormed : Prop :=
  ∀ (bytes : List Byte) (i : Instr), decode bytes = .ok i →
    i.wellFormed = true ∧ i.length ≤ bytes.length ∧ bytes.head?.map (fun b0 => opcodeLength (opcodeOfByte b0)) = some (some i.length)

/-- Changing the bits of an unused field changes nothing: RR 24..21, SI6 24..22, R1 12..11, F1 12..9 (but for BRK), Z1 12..6 (R102). -/
def Obligations.UnusedFieldsAreIgnored : Prop :=
  (∀ (ins : BitVec 52) (x : BitVec 4), fieldSel ins = 0#1 →
      (fieldOp ins).toNat ∈ [0o00, 0o10, 0o30, 0o40, 0o50, 0o60, 0o70, 0o06, 0o16, 0o26, 0o36] →
      decodeIns (ins ^^^ (x.setWidth 52 <<< 21)) = decodeIns ins) ∧
  (∀ (ins : BitVec 52) (x : BitVec 3), fieldSel ins = 1#1 → (fieldOp ins).toNat ∈ [0o06, 0o16, 0o26, 0o36] →
      decodeIns (ins ^^^ (x.setWidth 52 <<< 22)) = decodeIns ins) ∧
  (∀ (ins : BitVec 52) (x : BitVec 2), (fieldOp ins).toNat ∈ [0o44, 0o54, 0o66, 0o76] →
      decodeIns (ins ^^^ (x.setWidth 52 <<< 11)) = decodeIns ins) ∧
  (∀ (ins : BitVec 52) (x : BitVec 4),
      (fieldOp ins).toNat ∈ [0o24, 0o45] ∨ ((fieldOp ins).toNat = 0o34 ∧ fieldFn3 ins ≠ 3#3) →
      decodeIns (ins ^^^ (x.setWidth 52 <<< 9)) = decodeIns ins) ∧
  (∀ (ins : BitVec 52) (x : BitVec 7), (fieldOp ins).toNat ∈ [0o65, 0o75] →
      decodeIns (ins ^^^ (x.setWidth 52 <<< 6)) = decodeIns ins)

/-- Exactly the encodings that R101 lists are invalid, and the step refuses them. -/
def Obligations.UnassignedEncodingsAreRefused : Prop :=
  (∀ (b0 : Byte) (rest : List Byte), unassigned b0 → ∃ e, decode (b0 :: rest) = .error e) ∧
  (∀ (b0 : Byte) (rest : List Byte), ¬ unassigned b0 → 3 ≤ rest.length → ∃ i, decode (b0 :: rest) = .ok i) ∧
  (∀ (s : State) (bytes : List Byte) (e : DecodeError), s.quiet → s.run = .running →
    s.fetchBytes = .ok bytes → decode bytes = .error e → step s = .refused .unassignedEncoding)

/-- The length table of R81. -/
def Obligations.LengthsOfTheOpcodes : Prop :=
  ∀ op : BitVec 6, opcodeLength op = lengthTable op.toNat

/-- Words that 95_test_vectors.md writes out, one or more for each family. -/
def Obligations.SampleWordsDecode : Prop :=
  decode [0x1040#13, 0x0018#13] = .ok (.addRR 1 2 3) ∧ decode [0x0901#13, 0x00C1#13, 0x1FFF#13] = .ok (.addRI23 4 5 (-1000)) ∧
  decode [0x1008#13, 0x1028#13] = .ok (.cmpRI9 2 5) ∧ decode [0x1046#13, 0x1198#13] = .ok (.aslSI6 1 2 51) ∧
  decode [0x0072#13, 0x1FE0#13, 0x1FFF#13, 0x1FFF#13] = .ok (.ldRI36 1 0 0xFFFFFFFFC) ∧
  decode [0x017E#13] = .ok (.psh 5) ∧ decode [0x000C#13, 0x0040#13, 0x0000#13, 0x0000#13] = .ok (.jsrAbs46 0x2000) ∧
  decode [0x09CD#13, 0x1FED#13] = .ok (.bccD17 (-300)) ∧ decode [0x0ADC#13] = .ok (.brk 5) ∧ decode [0x01E5#13] = .ok .cmps

/-- A step runs the decoded instruction: around exec it only uses up the boundary's inputs and moves the tick on (R9, R236; log 9, log 16); an irq with `i` = 1 is held off (R237). -/
def Obligations.StepRunsTheDecodedInstruction : Prop :=
  ∀ (s : State) (bytes : List Byte) (i : Instr), s.inputsNow.rst = false → s.inputsNow.nmi = false →
    (s.inputsNow.irq = false ∨ s.flags.i = true) → s.run = .running → s.fetchBytes = .ok bytes → decode bytes = .ok i →
    step s = exec i { s with inputs := s.inputs.tail, tick := s.tick + 1 }

/-- Where memory holds an instruction's bytes from pc on, at any byte address and across the top of memory, and no store has changed them, the fetch reads exactly them (R57). -/
def Obligations.FetchReadsTheInstructionAtPc : Prop :=
  ∀ (s : State) (i : Instr), i.wellFormed = true →
    (∀ k : Nat, k < i.length → (encode i)[k]? = some (s.byteAt (s.pc + BitVec.ofNat 52 k)) ∧
      s.oldBytes (s.pc + BitVec.ofNat 52 k) = []) →
    s.fetchBytes = .ok (encode i)

/-- MODEL CHOICE (log 15): a fetch sees the byte of memory or one that a store replaced there; R64 gives neither a source. -/
def Obligations.FetchSeesOnlyBytesHeld : Prop :=
  ∀ (s : State) (a : Word),
    (s.fetchView a = s.byteAt a ∨ (a.toNat, s.fetchView a) ∈ s.overwritten) ∧
    (s.oldBytes a = [] → s.fetchView a = s.byteAt a)

/-- MODEL CHOICE (log 15): the note that FetchSeesOnlyBytesHeld rests on is kept by every instruction (R64). -/
def Obligations.EveryChangedByteIsNoted : Prop :=
  ∀ (i : Instr) (s t : State), s.mem.wf = true → exec i s = .next t →
    (∀ c ∈ s.overwritten, c ∈ t.overwritten) ∧
    ∀ a : Word, t.byteAt a ≠ s.byteAt a → (a.toNat, s.byteAt a) ∈ t.overwritten

/-- What the spec says of the state after reset (R33): `i`, `b`, the run state, R0, and pc from the vector. -/
def Obligations.StateAfterReset : Prop :=
  State.reset.flags.i = true ∧ State.reset.flags.b = false ∧ State.reset.run = .running ∧ State.reset.reg 0 = 0 ∧
  State.reset.pc = State.reset.wordAt 0xFFFFFFFFFFFF8

/-- The reset event (R250): from any run state and over any other input. -/
def Obligations.ResetInputResets : Prop :=
  ∀ s : State, s.inputsNow.rst = true →
    Completes (step s) fun t =>
      SameRegs s t ∧ SameMemory s t ∧ t.flags = { s.flags with i := true, b := false } ∧ t.pc = s.wordAt 0xFFFFFFFFFFFF8 ∧
      t.run = .running ∧ t.inputs = s.inputs.tail ∧ t.tick = s.tick

/-- R236's order of tests: nmi over irq, irq only with `i` = 0, a masked irq ends a wait without a trap; the return address is pc. MODEL CHOICE: also where R31 is no multiple of 4, by MISALIGNED_WORD = split (log 11). -/
def Obligations.InterruptInputsAreAnswered : Prop :=
  ∀ s : State, s.inputsNow.rst = false → s.mem.wf = true →
    (s.run ≠ .stopped → s.inputsNow.nmi = true →
      Completes (step s) fun t => TrapTaken { s with inputs := s.inputs.tail } t 0xFFFFFFFFFFFF4 s.pc false) ∧
    (s.run ≠ .stopped → s.inputsNow.nmi = false → s.inputsNow.irq = true → s.flags.i = false →
      Completes (step s) fun t => TrapTaken { s with inputs := s.inputs.tail } t 0xFFFFFFFFFFFFC s.pc false) ∧
    (s.run = .waiting → s.inputsNow.nmi = false → s.inputsNow.irq = true → s.flags.i = true →
      step s = .next { s with inputs := s.inputs.tail, run := .running })

/-- A stopped core ignores nmi and irq; a waiting core waits (R196, R197, R236). -/
def Obligations.IdleCoreDoesNothing : Prop :=
  ∀ s : State, s.inputsNow.rst = false →
    (s.run = .stopped ∨ (s.run = .waiting ∧ s.inputsNow.nmi = false ∧ s.inputsNow.irq = false)) →
    step s = .next { s with inputs := s.inputs.tail }

/-- TrapEntry(vec, ret, bval) of R233. MODEL CHOICE: also where R31 is no multiple of 4, by MISALIGNED_WORD = split (log 11). -/
def Obligations.TrapEntryEffect : Prop :=
  ∀ (s : State) (vec ret : Word) (bval : Bool), s.mem.wf = true →
    Completes (finish (s.trapEntry vec ret bval)) fun t => TrapTaken s t vec ret bval

/-- RTI pops exactly what the trap pushed (R240): also at the bottom of memory, where the pointer wraps. MODEL CHOICE: also where R31 is no multiple of 4, by MISALIGNED_WORD = split (log 11). -/
def Obligations.RtiUndoesATrap : Prop :=
  ∀ (s : State) (vec ret : Word) (bval : Bool), s.mem.wf = true →
    Completes (finish (s.trapEntry vec ret bval)) fun t =>
      Completes (exec .rti t) fun u =>
        u.pc = ret ∧ u.flags = { s.flags with b := bval } ∧ SameRegs s u ∧ SameMemoryBut s u (s.reg sp - 8#52) 8

/-- MemRead(a, n) (R53); at an address that is no multiple of 4 by MISALIGNED_WORD = split (log 11). -/
def Obligations.MemReadIsTheSumOfBytes : Prop :=
  ∀ (s : State) (a : Word),
    s.loadByte a = .ok (s.byteAt a) ∧
    ∃ w : Word, s.loadWord a = .ok w ∧
      w.toNat = (s.byteAt a).toNat + (s.byteAt (a + 1#52)).toNat * 2 ^ 13 + (s.byteAt (a + 2#52)).toNat * 2 ^ 26 +
        (s.byteAt (a + 3#52)).toNat * 2 ^ 39

/-- MemWrite(a, n, v) (R54); at an address that is no multiple of 4 by MISALIGNED_WORD = split (log 11). -/
def Obligations.MemWriteReplacesTheBytes : Prop :=
  ∀ (s : State) (a v : Word) (b : Byte), s.mem.wf = true →
    (∃ t, s.storeByte a b = .ok t ∧ StoredByte s t a b ∧ SameRegs s t ∧ t.flags = s.flags ∧ t.pc = s.pc ∧ SameRun s t) ∧
    (∃ t, s.storeWord a v = .ok t ∧ StoredWord s t a v ∧ SameRegs s t ∧ t.flags = s.flags ∧ t.pc = s.pc ∧ SameRun s t ∧
      ∀ k : Nat, k < 4 → (t.byteAt (a + BitVec.ofNat 52 k)).toNat = v.toNat / 2 ^ (13 * k) % 2 ^ 13)

/-- push52 and pop52 (R160), and that a pop after a push gives the value back. MODEL CHOICE: also where R31 is no multiple of 4, by MISALIGNED_WORD = split (log 11). -/
def Obligations.StackPrimitives : Prop :=
  ∀ (s : State) (v : Word), s.mem.wf = true →
    (∃ t, s.push v = .ok t ∧ StoredWord s t (s.reg sp - 4#52) v ∧ WroteReg s t sp (s.reg sp - 4#52) ∧
      t.flags = s.flags ∧ t.pc = s.pc ∧ SameRun s t) ∧
    (∃ t, s.pull = .ok (s.wordAt (s.reg sp), t) ∧ WroteReg s t sp (s.reg sp + 4#52) ∧ SameMemory s t ∧
      t.flags = s.flags ∧ t.pc = s.pc ∧ SameRun s t) ∧
    (∃ t u, s.push v = .ok t ∧ t.pull = .ok (v, u) ∧ SameRegs s u)

/-- ADD in its four forms (R121). -/
def Obligations.AddResult : Prop :=
  ∀ (s : State) (rt ra rb : Reg) (i9 : BitVec 9) (i23 : BitVec 23) (i36 : BitVec 36),
    Wrote s (exec (.addRR rt ra rb) s) rt (s.reg ra + (s.reg rb)) (sumFlags s.flags (s.reg ra) (s.reg rb)) 2#52 ∧
    Wrote s (exec (.addRI9 rt ra i9) s) rt (s.reg ra + (i9.signExtend 52)) (sumFlags s.flags (s.reg ra) (i9.signExtend 52)) 2#52 ∧
    Wrote s (exec (.addRI23 rt ra i23) s) rt (s.reg ra + (i23.signExtend 52)) (sumFlags s.flags (s.reg ra) (i23.signExtend 52)) 3#52 ∧
    Wrote s (exec (.addRI36 rt ra i36) s) rt (s.reg ra + (i36.signExtend 52)) (sumFlags s.flags (s.reg ra) (i36.signExtend 52)) 4#52

/-- SUB in its four forms (R122; `c` by SUB_CARRY's default). MODEL CHOICE: the instance rt = R0 is an ill-formed term, since every encoding of SUB with Rt = 0 is CMP (R100, R122, R123); that it writes v c n z like SUB with another target is the model's choice (log 37), not the spec's, and no decoded instruction is that term. -/
def Obligations.SubResult : Prop :=
  ∀ (s : State) (rt ra rb : Reg) (i9 : BitVec 9) (i23 : BitVec 23) (i36 : BitVec 36),
    Wrote s (exec (.subRR rt ra rb) s) rt (s.reg ra - (s.reg rb)) (differenceFlags s.flags (s.reg ra) (s.reg rb)) 2#52 ∧
    Wrote s (exec (.subRI9 rt ra i9) s) rt (s.reg ra - (i9.signExtend 52)) (differenceFlags s.flags (s.reg ra) (i9.signExtend 52)) 2#52 ∧
    Wrote s (exec (.subRI23 rt ra i23) s) rt (s.reg ra - (i23.signExtend 52)) (differenceFlags s.flags (s.reg ra) (i23.signExtend 52)) 3#52 ∧
    Wrote s (exec (.subRI36 rt ra i36) s) rt (s.reg ra - (i36.signExtend 52)) (differenceFlags s.flags (s.reg ra) (i36.signExtend 52)) 4#52

/-- CMP in its four forms (R123). -/
def Obligations.CmpResult : Prop :=
  ∀ (s : State) (ra rb : Reg) (i9 : BitVec 9) (i23 : BitVec 23) (i36 : BitVec 36),
    OnlyFlagsAndPc s (exec (.cmpRR ra rb) s) (compareFlags s.flags (s.reg ra) (s.reg rb)) (s.pc + 2#52) ∧
    OnlyFlagsAndPc s (exec (.cmpRI9 ra i9) s) (compareFlags s.flags (s.reg ra) (i9.signExtend 52)) (s.pc + 2#52) ∧
    OnlyFlagsAndPc s (exec (.cmpRI23 ra i23) s) (compareFlags s.flags (s.reg ra) (i23.signExtend 52)) (s.pc + 3#52) ∧
    OnlyFlagsAndPc s (exec (.cmpRI36 ra i36) s) (compareFlags s.flags (s.reg ra) (i36.signExtend 52)) (s.pc + 4#52)

/-- BIT in its four forms (R125). -/
def Obligations.BitResult : Prop :=
  ∀ (s : State) (ra rb : Reg) (i9 : BitVec 9) (i23 : BitVec 23) (i36 : BitVec 36),
    OnlyFlagsAndPc s (exec (.bitRR ra rb) s) (bitTestFlags s.flags (s.reg ra &&& (s.reg rb))) (s.pc + 2#52) ∧
    OnlyFlagsAndPc s (exec (.bitRI9 ra i9) s) (bitTestFlags s.flags (s.reg ra &&& (i9.signExtend 52))) (s.pc + 2#52) ∧
    OnlyFlagsAndPc s (exec (.bitRI23 ra i23) s) (bitTestFlags s.flags (s.reg ra &&& (i23.signExtend 52))) (s.pc + 3#52) ∧
    OnlyFlagsAndPc s (exec (.bitRI36 ra i36) s) (bitTestFlags s.flags (s.reg ra &&& (i36.signExtend 52))) (s.pc + 4#52)

/-- AND, OR and EOR, each in its four forms (R124, R126, R127). MODEL CHOICE: the instance rt = R0 of AND is an ill-formed term, since every encoding of AND with Rt = 0 is BIT (R100, R124, R125); that it writes n z and leaves v is the model's choice (log 37), not the spec's, and no decoded instruction is that term. -/
def Obligations.LogicResults : Prop :=
  ∀ (s : State) (rt ra rb : Reg) (i9 : BitVec 9) (i23 : BitVec 23) (i36 : BitVec 36),
    Wrote s (exec (.andRR rt ra rb) s) rt (s.reg ra &&& (s.reg rb)) (nz s.flags (s.reg ra &&& (s.reg rb))) 2#52 ∧
    Wrote s (exec (.andRI9 rt ra i9) s) rt (s.reg ra &&& (i9.signExtend 52)) (nz s.flags (s.reg ra &&& (i9.signExtend 52))) 2#52 ∧
    Wrote s (exec (.andRI23 rt ra i23) s) rt (s.reg ra &&& (i23.signExtend 52)) (nz s.flags (s.reg ra &&& (i23.signExtend 52))) 3#52 ∧
    Wrote s (exec (.andRI36 rt ra i36) s) rt (s.reg ra &&& (i36.signExtend 52)) (nz s.flags (s.reg ra &&& (i36.signExtend 52))) 4#52 ∧
    Wrote s (exec (.orRR rt ra rb) s) rt (s.reg ra ||| (s.reg rb)) (nz s.flags (s.reg ra ||| (s.reg rb))) 2#52 ∧
    Wrote s (exec (.orRI9 rt ra i9) s) rt (s.reg ra ||| (i9.signExtend 52)) (nz s.flags (s.reg ra ||| (i9.signExtend 52))) 2#52 ∧
    Wrote s (exec (.orRI23 rt ra i23) s) rt (s.reg ra ||| (i23.signExtend 52)) (nz s.flags (s.reg ra ||| (i23.signExtend 52))) 3#52 ∧
    Wrote s (exec (.orRI36 rt ra i36) s) rt (s.reg ra ||| (i36.signExtend 52)) (nz s.flags (s.reg ra ||| (i36.signExtend 52))) 4#52 ∧
    Wrote s (exec (.eorRR rt ra rb) s) rt (s.reg ra ^^^ (s.reg rb)) (nz s.flags (s.reg ra ^^^ (s.reg rb))) 2#52 ∧
    Wrote s (exec (.eorRI9 rt ra i9) s) rt (s.reg ra ^^^ (i9.signExtend 52)) (nz s.flags (s.reg ra ^^^ (i9.signExtend 52))) 2#52 ∧
    Wrote s (exec (.eorRI23 rt ra i23) s) rt (s.reg ra ^^^ (i23.signExtend 52)) (nz s.flags (s.reg ra ^^^ (i23.signExtend 52))) 3#52 ∧
    Wrote s (exec (.eorRI36 rt ra i36) s) rt (s.reg ra ^^^ (i36.signExtend 52)) (nz s.flags (s.reg ra ^^^ (i36.signExtend 52))) 4#52

/-- ASL by 0 to 51, both forms (R143). -/
def Obligations.AslResult : Prop :=
  ∀ (s : State) (rt ra rb : Reg) (i6 : BitVec 6),
    ((s.reg rb).toNat < 52 →
      Wrote s (exec (.aslRR rt ra rb) s) rt (BitVec.ofNat 52 ((s.reg ra).toNat * 2 ^ (s.reg rb).toNat))
        (shiftFlags s.flags (s.reg rb).toNat ((s.reg ra).getLsbD (52 - (s.reg rb).toNat)) (BitVec.ofNat 52 ((s.reg ra).toNat * 2 ^ (s.reg rb).toNat))) 2#52) ∧
    (i6.toNat < 52 →
      Wrote s (exec (.aslSI6 rt ra i6) s) rt (BitVec.ofNat 52 ((s.reg ra).toNat * 2 ^ i6.toNat))
        (shiftFlags s.flags i6.toNat ((s.reg ra).getLsbD (52 - i6.toNat)) (BitVec.ofNat 52 ((s.reg ra).toNat * 2 ^ i6.toNat))) 2#52)

/-- ROL by 0 to 51, both forms (R144). -/
def Obligations.RolResult : Prop :=
  ∀ (s : State) (rt ra rb : Reg) (i6 : BitVec 6),
    ((s.reg rb).toNat < 52 →
      Wrote s (exec (.rolRR rt ra rb) s) rt (if (s.reg rb).toNat = 0 then (s.reg ra) else BitVec.ofNat 52 ((s.reg ra).toNat * 2 ^ (s.reg rb).toNat % 2 ^ 52 ||| (s.reg ra).toNat / 2 ^ (52 - (s.reg rb).toNat)))
        (shiftFlags s.flags (s.reg rb).toNat ((s.reg ra).getLsbD (52 - (s.reg rb).toNat)) (if (s.reg rb).toNat = 0 then (s.reg ra) else BitVec.ofNat 52 ((s.reg ra).toNat * 2 ^ (s.reg rb).toNat % 2 ^ 52 ||| (s.reg ra).toNat / 2 ^ (52 - (s.reg rb).toNat)))) 2#52) ∧
    (i6.toNat < 52 →
      Wrote s (exec (.rolSI6 rt ra i6) s) rt (if i6.toNat = 0 then (s.reg ra) else BitVec.ofNat 52 ((s.reg ra).toNat * 2 ^ i6.toNat % 2 ^ 52 ||| (s.reg ra).toNat / 2 ^ (52 - i6.toNat)))
        (shiftFlags s.flags i6.toNat ((s.reg ra).getLsbD (52 - i6.toNat)) (if i6.toNat = 0 then (s.reg ra) else BitVec.ofNat 52 ((s.reg ra).toNat * 2 ^ i6.toNat % 2 ^ 52 ||| (s.reg ra).toNat / 2 ^ (52 - i6.toNat)))) 2#52)

/-- LSR by 0 to 51, both forms (R145). -/
def Obligations.LsrResult : Prop :=
  ∀ (s : State) (rt ra rb : Reg) (i6 : BitVec 6),
    ((s.reg rb).toNat < 52 →
      Wrote s (exec (.lsrRR rt ra rb) s) rt (BitVec.ofNat 52 ((s.reg ra).toNat / 2 ^ (s.reg rb).toNat))
        (shiftFlags s.flags (s.reg rb).toNat ((s.reg ra).getLsbD ((s.reg rb).toNat - 1)) (BitVec.ofNat 52 ((s.reg ra).toNat / 2 ^ (s.reg rb).toNat))) 2#52) ∧
    (i6.toNat < 52 →
      Wrote s (exec (.lsrSI6 rt ra i6) s) rt (BitVec.ofNat 52 ((s.reg ra).toNat / 2 ^ i6.toNat))
        (shiftFlags s.flags i6.toNat ((s.reg ra).getLsbD (i6.toNat - 1)) (BitVec.ofNat 52 ((s.reg ra).toNat / 2 ^ i6.toNat))) 2#52)

/-- ROR by 0 to 51, both forms (R146). -/
def Obligations.RorResult : Prop :=
  ∀ (s : State) (rt ra rb : Reg) (i6 : BitVec 6),
    ((s.reg rb).toNat < 52 →
      Wrote s (exec (.rorRR rt ra rb) s) rt (if (s.reg rb).toNat = 0 then (s.reg ra) else BitVec.ofNat 52 ((s.reg ra).toNat / 2 ^ (s.reg rb).toNat ||| (s.reg ra).toNat * 2 ^ (52 - (s.reg rb).toNat) % 2 ^ 52))
        (shiftFlags s.flags (s.reg rb).toNat ((s.reg ra).getLsbD ((s.reg rb).toNat - 1)) (if (s.reg rb).toNat = 0 then (s.reg ra) else BitVec.ofNat 52 ((s.reg ra).toNat / 2 ^ (s.reg rb).toNat ||| (s.reg ra).toNat * 2 ^ (52 - (s.reg rb).toNat) % 2 ^ 52))) 2#52) ∧
    (i6.toNat < 52 →
      Wrote s (exec (.rorSI6 rt ra i6) s) rt (if i6.toNat = 0 then (s.reg ra) else BitVec.ofNat 52 ((s.reg ra).toNat / 2 ^ i6.toNat ||| (s.reg ra).toNat * 2 ^ (52 - i6.toNat) % 2 ^ 52))
        (shiftFlags s.flags i6.toNat ((s.reg ra).getLsbD (i6.toNat - 1)) (if i6.toNat = 0 then (s.reg ra) else BitVec.ofNat 52 ((s.reg ra).toNat / 2 ^ i6.toNat ||| (s.reg ra).toNat * 2 ^ (52 - i6.toNat) % 2 ^ 52))) 2#52)

/-- MODEL CHOICE (log 8): R141 states no result for a count of 52 or more; the model runs the shift with a free value. -/
def Obligations.WideShiftsComplete : Prop :=
  ∀ (s : State) (rt ra rb : Reg) (i6 : BitVec 6),
    (52 ≤ (s.reg rb).toNat → WideShift s (exec (.aslRR rt ra rb) s) rt) ∧
    (52 ≤ i6.toNat → WideShift s (exec (.aslSI6 rt ra i6) s) rt) ∧
    (52 ≤ (s.reg rb).toNat → WideShift s (exec (.rolRR rt ra rb) s) rt) ∧
    (52 ≤ i6.toNat → WideShift s (exec (.rolSI6 rt ra i6) s) rt) ∧
    (52 ≤ (s.reg rb).toNat → WideShift s (exec (.lsrRR rt ra rb) s) rt) ∧
    (52 ≤ i6.toNat → WideShift s (exec (.lsrSI6 rt ra i6) s) rt) ∧
    (52 ≤ (s.reg rb).toNat → WideShift s (exec (.rorRR rt ra rb) s) rt) ∧
    (52 ≤ i6.toNat → WideShift s (exec (.rorSI6 rt ra i6) s) rt)

/-- LD in its four forms (R151), at any address (MISALIGNED_WORD = split, log 11). -/
def Obligations.LdResult : Prop :=
  ∀ (s : State) (rt ra rb : Reg) (i9 : BitVec 9) (i23 : BitVec 23) (i36 : BitVec 36),
    Wrote s (exec (.ldRR rt ra rb) s) rt (s.wordAt (s.reg ra + s.reg rb)) (nz s.flags (s.wordAt (s.reg ra + s.reg rb))) 2#52 ∧
    Wrote s (exec (.ldRI9 rt ra i9) s) rt (s.wordAt (s.reg ra + i9.signExtend 52)) (nz s.flags (s.wordAt (s.reg ra + i9.signExtend 52))) 2#52 ∧
    Wrote s (exec (.ldRI23 rt ra i23) s) rt (s.wordAt (s.reg ra + i23.signExtend 52)) (nz s.flags (s.wordAt (s.reg ra + i23.signExtend 52))) 3#52 ∧
    Wrote s (exec (.ldRI36 rt ra i36) s) rt (s.wordAt (s.reg ra + i36.signExtend 52)) (nz s.flags (s.wordAt (s.reg ra + i36.signExtend 52))) 4#52

/-- LDB (R152), with LDB_EXT's default. -/
def Obligations.LdbResult : Prop :=
  ∀ (s : State) (rt ra : Reg) (i36 : BitVec 36),
    Wrote s (exec (.ldbRI36 rt ra i36) s) rt ((s.byteAt (s.reg ra + i36.signExtend 52)).signExtend 52)
      (nz s.flags ((s.byteAt (s.reg ra + i36.signExtend 52)).signExtend 52)) 4#52

/-- ST in its four forms (R153), at any address (MISALIGNED_WORD = split, log 11). -/
def Obligations.StResult : Prop :=
  ∀ (s : State) (rs ra rb : Reg) (i9 : BitVec 9) (i23 : BitVec 23) (i36 : BitVec 36), s.mem.wf = true →
    StoreDone s (exec (.stRR rs ra rb) s) (s.reg ra + s.reg rb) (s.reg rs) 2#52 ∧
    StoreDone s (exec (.stRI9 rs ra i9) s) (s.reg ra + i9.signExtend 52) (s.reg rs) 2#52 ∧
    StoreDone s (exec (.stRI23 rs ra i23) s) (s.reg ra + i23.signExtend 52) (s.reg rs) 3#52 ∧
    StoreDone s (exec (.stRI36 rs ra i36) s) (s.reg ra + i36.signExtend 52) (s.reg rs) 4#52

/-- STB (R154). -/
def Obligations.StbResult : Prop :=
  ∀ (s : State) (rs ra : Reg) (i36 : BitVec 36), s.mem.wf = true →
    Completes (exec (.stbRI36 rs ra i36) s) fun t =>
      StoredByte s t (s.reg ra + i36.signExtend 52) (BitVec.ofNat 13 (s.reg rs).toNat) ∧ SameRegs s t ∧ t.flags = s.flags ∧
      t.pc = s.pc + 4#52 ∧ SameRun s t

/-- A load reads the latest store to the same address (R61, R253), at any address (MISALIGNED_WORD = split, log 11). -/
def Obligations.LoadAfterStoreReadsTheWord : Prop :=
  ∀ (s t u : State) (rs rt ra rb : Reg), s.mem.wf = true → rt ≠ 0#5 →
    exec (.stRR rs ra rb) s = .next t → exec (.ldRR rt ra rb) t = .next u → u.reg rt = s.reg rs

/-- PHP and PLP (R161, R162). MODEL CHOICE: also where R31 is no multiple of 4, by MISALIGNED_WORD = split (log 11). -/
def Obligations.PhpAndPlpResult : Prop :=
  ∀ s : State,
    (s.mem.wf = true → PushDone s (exec .php s) (imageOf s.flags) (s.pc + 1#52)) ∧
    Wrote s (exec .plp s) sp (s.reg sp + 4#52) (flagsOf (s.wordAt (s.reg sp))) 1#52

/-- PSH (R163), PSH R31 in the literal order. MODEL CHOICE: also where R31 is no multiple of 4, by MISALIGNED_WORD = split (log 11). -/
def Obligations.PshResult : Prop :=
  ∀ (s : State) (ra : Reg), s.mem.wf = true →
    PushDone s (exec (.psh ra) s) (if ra = sp then s.reg sp - 4#52 else s.reg ra) (s.pc + 1#52)

/-- POP (R164), POP R31 in the literal order, POP R0 discarding. MODEL CHOICE: also where R31 is no multiple of 4, by MISALIGNED_WORD = split (log 11). -/
def Obligations.PopResult : Prop :=
  ∀ (s : State) (rt : Reg),
    Completes (exec (.pop rt) s) fun t =>
      t.reg 0#5 = 0#52 ∧ (rt ≠ 0#5 → rt ≠ sp → t.reg rt = s.wordAt (s.reg sp)) ∧
      t.reg sp = (if rt = sp then s.wordAt (s.reg sp) + 4#52 else s.reg sp + 4#52) ∧
      (∀ r, r ≠ rt → r ≠ sp → t.reg r = s.reg r) ∧
      t.flags = nz s.flags (s.wordAt (s.reg sp)) ∧ t.pc = s.pc + 1#52 ∧ SameMemory s t ∧ SameRun s t

/-- JMP in both forms (R170, R171). -/
def Obligations.JmpResult : Prop :=
  ∀ (s : State) (ra : Reg) (addr : BitVec 46),
    OnlyFlagsAndPc s (exec (.jmpAbs46 addr) s) s.flags (BitVec.ofNat 52 (s.pc.toNat / 2 ^ 46 * 2 ^ 46 + addr.toNat)) ∧
    OnlyFlagsAndPc s (exec (.jmpReg ra) s) s.flags (s.reg ra)

/-- JSR in both forms (R172, R173), JSR [R31] in the literal order. MODEL CHOICE: also where R31 is no multiple of 4, by MISALIGNED_WORD = split (log 11). -/
def Obligations.JsrResult : Prop :=
  ∀ (s : State) (ra : Reg) (addr : BitVec 46), s.mem.wf = true →
    PushDone s (exec (.jsrAbs46 addr) s) (s.pc + 4#52) (BitVec.ofNat 52 (s.pc.toNat / 2 ^ 46 * 2 ^ 46 + addr.toNat)) ∧
    PushDone s (exec (.jsrReg ra) s) (s.pc + 1#52) (if ra = sp then s.reg sp - 4#52 else s.reg ra)

/-- RTS (R174): its encoding, opcode 24o with Fn3 = 0 and bits 12..9 unused, and its effect. MODEL CHOICE: also where R31 is no multiple of 4, by MISALIGNED_WORD = split (log 11). -/
def Obligations.RtsResult : Prop :=
  ∀ (s : State) (b : Byte), (b.extractLsb' 0 9 = 0o024#9 → decode [b] = .ok .rts) ∧
    Completes (exec .rts s) fun t =>
      WroteReg s t sp (s.reg sp + 4#52) ∧ t.flags = s.flags ∧ t.pc = s.wordAt (s.reg sp) ∧ SameMemory s t ∧ SameRun s t

/-- RTI (R175). MODEL CHOICE: also where R31 is no multiple of 4, by MISALIGNED_WORD = split (log 11). -/
def Obligations.RtiResult : Prop :=
  ∀ s : State,
    Completes (exec .rti s) fun t =>
      WroteReg s t sp (s.reg sp + 8#52) ∧ t.flags = flagsOf (s.wordAt (s.reg sp)) ∧ t.pc = s.wordAt (s.reg sp + 4#52) ∧
      SameMemory s t ∧ SameRun s t

/-- NOP: its encoding, opcode 24o with Fn3 = 7, 1 byte and no flag (R176, R99). MODEL CHOICE: that it changes nothing but pc is no rule of the source: R176 marks that sentence as general knowledge, not in the source (log 34, PRESUMED). -/
def Obligations.NopResult : Prop :=
  ∀ (s : State) (b : Byte), (b.extractLsb' 0 9 = 0o724#9 → decode [b] = .ok .nop) ∧
    OnlyFlagsAndPc s (exec .nop s) s.flags (s.pc + 1#52)

/-- The conditional branches and BRA in both forms (R179, R180, R181; BRANCH_BASE's default). -/
def Obligations.BranchResults : Prop :=
  ∀ (s : State) (d4 : BitVec 4) (d17 : BitVec 17),
    Branches s (exec (.beqD4 d4) s) (s.flags.z = true) 1 d4 ∧
    Branches s (exec (.bneD4 d4) s) (s.flags.z = false) 1 d4 ∧
    Branches s (exec (.bplD4 d4) s) (s.flags.n = false) 1 d4 ∧
    Branches s (exec (.bmiD4 d4) s) (s.flags.n = true) 1 d4 ∧
    Branches s (exec (.bvsD4 d4) s) (s.flags.v = true) 1 d4 ∧
    Branches s (exec (.bvcD4 d4) s) (s.flags.v = false) 1 d4 ∧
    Branches s (exec (.bcsD4 d4) s) (s.flags.c = true) 1 d4 ∧
    Branches s (exec (.bccD4 d4) s) (s.flags.c = false) 1 d4 ∧
    Branches s (exec (.braD4 d4) s) True 1 d4 ∧
    Branches s (exec (.beqD17 d17) s) (s.flags.z = true) 2 d17 ∧
    Branches s (exec (.bneD17 d17) s) (s.flags.z = false) 2 d17 ∧
    Branches s (exec (.bplD17 d17) s) (s.flags.n = false) 2 d17 ∧
    Branches s (exec (.bmiD17 d17) s) (s.flags.n = true) 2 d17 ∧
    Branches s (exec (.bvsD17 d17) s) (s.flags.v = true) 2 d17 ∧
    Branches s (exec (.bvcD17 d17) s) (s.flags.v = false) 2 d17 ∧
    Branches s (exec (.bcsD17 d17) s) (s.flags.c = true) 2 d17 ∧
    Branches s (exec (.bccD17 d17) s) (s.flags.c = false) 2 d17 ∧
    Branches s (exec (.braD17 d17) s) True 2 d17

/-- PFI (R195, a NOP under the spec's default reading, log 20), WAI and STP (R196, R197). -/
def Obligations.PfiWaiStpResult : Prop :=
  ∀ s : State,
    OnlyFlagsAndPc s (exec .pfi s) s.flags (s.pc + 1#52) ∧
    (Completes (exec .wai s) fun t => SameRegs s t ∧ t.flags = s.flags ∧ t.pc = s.pc + 1#52 ∧ SameMemory s t ∧
      t.run = .waiting ∧ t.inputs = s.inputs ∧ t.tick = s.tick) ∧
    (Completes (exec .stp s) fun t => SameRegs s t ∧ t.flags = s.flags ∧ t.pc = s.pc + 1#52 ∧ SameMemory s t ∧
      t.run = .stopped ∧ t.inputs = s.inputs ∧ t.tick = s.tick)

/-- SEP and REP (R198, R199) under the default SR_LAYOUT. -/
def Obligations.SepAndRepResult : Prop :=
  ∀ (s : State) (m : BitVec 7),
    OnlyFlagsAndPc s (exec (.sep m) s) (maskedFlags s.flags m true) (s.pc + 1#52) ∧
    OnlyFlagsAndPc s (exec (.rep m) s) (maskedFlags s.flags m false) (s.pc + 1#52)

/-- BRK (R190): the trap at VEC_BRK, return address pc + 1, `b` = 1; Const4 has no effect. MODEL CHOICE: also where R31 is no multiple of 4, by MISALIGNED_WORD = split (log 11). -/
def Obligations.BrkResult : Prop :=
  ∀ (s : State) (k : BitVec 4), s.mem.wf = true →
    Completes (exec (.brk k) s) fun t => TrapTaken s t 0xFFFFFFFFFFFFC (s.pc + 1#52) true

/-- RST, NMI, IRQ in program text (R191 to R193), the spec's default reading (log 18). MODEL CHOICE: also where R31 is no multiple of 4, by MISALIGNED_WORD = split (log 11). -/
def Obligations.TrapOpcodesResult : Prop :=
  ∀ s : State, s.mem.wf = true →
    (Completes (exec .rst s) fun t => TrapTaken s t 0xFFFFFFFFFFFF8 (s.pc + 1#52) false) ∧
    (Completes (exec .nmi s) fun t => TrapTaken s t 0xFFFFFFFFFFFF4 (s.pc + 1#52) false) ∧
    (Completes (exec .irq s) fun t => TrapTaken s t 0xFFFFFFFFFFFFC (s.pc + 1#52) false)

/-- MVN and MVP, one element (R214, R215), at any address (log 11). -/
def Obligations.WordMoves : Prop :=
  ∀ s : State, s.mem.wf = true →
    ElementDone s (exec .mvn s) (s.reg xReg + 4#52) (s.reg yReg + 4#52) s.flags (afterElement s)
      (fun t => StoredWord s t (s.reg yReg) (s.wordAt (s.reg xReg))) ∧
    ElementDone s (exec .mvp s) (s.reg xReg - 4#52) (s.reg yReg - 4#52) s.flags (afterElement s)
      (fun t => StoredWord s t (s.reg yReg) (s.wordAt (s.reg xReg)))

/-- MVNB and MVPB, one element (R219, R220). -/
def Obligations.ByteMoves : Prop :=
  ∀ s : State, s.mem.wf = true →
    ElementDone s (exec .mvnb s) (s.reg xReg + 1#52) (s.reg yReg + 1#52) s.flags (afterElement s)
      (fun t => StoredByte s t (s.reg yReg) (s.byteAt (s.reg xReg))) ∧
    ElementDone s (exec .mvpb s) (s.reg xReg - 1#52) (s.reg yReg - 1#52) s.flags (afterElement s)
      (fun t => StoredByte s t (s.reg yReg) (s.byteAt (s.reg xReg)))

/-- STS and STSB, one element (R216, R221). MODEL CHOICE: also where X or Y is no multiple of 4, by MISALIGNED_WORD = split (log 11). -/
def Obligations.Fills : Prop :=
  ∀ s : State, s.mem.wf = true →
    ElementDone s (exec .sts s) (s.reg xReg) (s.reg yReg + 4#52) s.flags (afterElement s) (fun t => StoredWord s t (s.reg yReg) (s.reg xReg)) ∧
    ElementDone s (exec .stsb s) (s.reg xReg) (s.reg yReg + 1#52) s.flags (afterElement s)
      (fun t => StoredByte s t (s.reg yReg) (BitVec.ofNat 13 (s.reg xReg).toNat))

/-- CMPS and CMPSB, one element (R217, R222): the count is tested before the compare. MODEL CHOICE: also where X or Y is no multiple of 4, by MISALIGNED_WORD = split (log 11). -/
def Obligations.Compares : Prop :=
  ∀ s : State,
    ElementDone s (exec .cmps s) (s.reg xReg + 4#52) (s.reg yReg + 4#52) (elementFlags s (s.wordAt (s.reg xReg)) (s.wordAt (s.reg yReg)))
      (afterCompare s (s.wordAt (s.reg xReg)) (s.wordAt (s.reg yReg))) (SameMemory s) ∧
    ElementDone s (exec .cmpsb s) (s.reg xReg + 1#52) (s.reg yReg + 1#52)
      (elementFlags s ((s.byteAt (s.reg xReg)).signExtend 52) ((s.byteAt (s.reg yReg)).signExtend 52))
      (afterCompare s ((s.byteAt (s.reg xReg)).signExtend 52) ((s.byteAt (s.reg yReg)).signExtend 52)) (SameMemory s)

/-- Every instruction completes in every state. MODEL CHOICES, not the spec's: a shift or rotate by 52 or more completes with a free result (log 8; R141 and R230 let a model refuse it), a word access that is no multiple of 4 is split (log 11), every address is plain memory (log 14), and an ill-formed term, SUB or AND with target R0, has an effect (log 37). -/
def Obligations.NoInstructionStops : Prop :=
  ∀ (i : Instr) (s : State), ∃ t, exec i s = .next t

/-- The one stop of a step (R101). MODEL CHOICES, not the spec's, that it is the only one of those R230 lists: wide shifts complete with a free result (log 8), a word access that is no multiple of 4 is split (log 11), every address is plain memory (log 14), a fetch from a changed byte goes on with a free choice among the bytes held there (log 15), and a stopped or waiting core takes idle steps (log 17). -/
def Obligations.OnlyUnassignedEncodingsStopTheMachine : Prop :=
  ∀ s : State, (∃ t, step s = .next t) ∨
    (step s = .refused .unassignedEncoding ∧ ∃ (bytes : List Byte) (e : DecodeError), s.fetchBytes = .ok bytes ∧ decode bytes = .error e)

/-- A flag that R27's table does not list for an instruction is left unchanged by it: also `i`, that only the traps, SEP, REP, PLP and RTI change (R237), and `d`, that only PLP and RTI change (R25). -/
def Obligations.FlagsWrittenByTheTable : Prop :=
  ∀ (i : Instr) (s t : State), exec i s = .next t →
    ((flagsWritten i).c = false → t.flags.c = s.flags.c) ∧
    ((flagsWritten i).v = false → t.flags.v = s.flags.v) ∧
    ((flagsWritten i).n = false → t.flags.n = s.flags.n) ∧
    ((flagsWritten i).z = false → t.flags.z = s.flags.z) ∧
    ((flagsWritten i).i = false → t.flags.i = s.flags.i) ∧
    ((flagsWritten i).u = false → t.flags.u = s.flags.u) ∧
    ((flagsWritten i).b = false → t.flags.b = s.flags.b) ∧
    ((flagsWritten i).d = false → t.flags.d = s.flags.d)

/-- Every instruction touches only the registers its fields name, and R23's implicit ones; R0 reads as zero (R21). -/
def Obligations.RegistersWrittenByTheTable : Prop :=
  ∀ (i : Instr) (s t : State), exec i s = .next t → t.reg 0#5 = 0#52 ∧ ∀ q, q ∉ regsWritten i → t.reg q = s.reg q

/-- An instruction stores only where R55 says: at the address its meaning computes, as many bytes as its form is wide. -/
def Obligations.MemoryWrittenByTheTable : Prop :=
  ∀ (i : Instr) (s t : State), s.mem.wf = true → exec i s = .next t →
    (bytesStored s i = none → SameMemory s t) ∧ ∀ a n, bytesStored s i = some (a, n) → SameMemoryBut s t a n

/-- Only WAI and STP leave the running state (R244). -/
def Obligations.RunStateChangesOnlyByWaiAndStp : Prop :=
  ∀ (i : Instr) (s t : State), exec i s = .next t → i ≠ .wai → i ≠ .stp → s.run = .running → t.run = .running

/-- The invariant: canonical memory, R0's slot 0, notes of overwritten bytes within memory (R21, R50, R54). -/
def Obligations.EveryStepKeepsTheInvariant : Prop :=
  ∀ s t : State, s.Inv → step s = .next t → t.Inv

/-- The invariant holds at reset. -/
def Obligations.ResetMeetsTheInvariant : Prop :=
  State.reset.Inv

/-- The start without a reset vector (R251): Reset() at the given address (R250), with the registers the harness states and no input for ever. MODEL CHOICES: how a program is placed, segment after segment with addresses modulo 2^52, that a later segment lies over an earlier one, and that a fetch then sees memory alone (log 4). -/
def Obligations.StartWithoutAResetVector : Prop :=
  ∀ (s : State) (program : List (Word × List Byte)) (base : Word) (bytes : List Byte) (entry : Word) (given : List (Reg × Word)),
    s.mem.wf = true →
    (s.start (program ++ [(base, bytes)]) entry given).pc = entry ∧
    (s.start (program ++ [(base, bytes)]) entry given).run = .running ∧
    (s.start (program ++ [(base, bytes)]) entry given).flags = { s.flags with i := true, b := false } ∧
    (s.start (program ++ [(base, bytes)]) entry given).inputs = [] ∧
    (s.start (program ++ [(base, bytes)]) entry given).tick = s.tick ∧
    (∀ a, (s.start (program ++ [(base, bytes)]) entry given).fetchView a =
      (s.start (program ++ [(base, bytes)]) entry given).byteAt a) ∧
    (bytes.length ≤ 2 ^ 52 → ∀ (k : Nat) (v : Byte), bytes[k]? = some v →
      (s.start (program ++ [(base, bytes)]) entry given).byteAt (base + BitVec.ofNat 52 k) = v) ∧
    (∀ a, OutsideProgram (program ++ [(base, bytes)]) a →
      (s.start (program ++ [(base, bytes)]) entry given).byteAt a = s.byteAt a) ∧
    (s.start (program ++ [(base, bytes)]) entry given).reg 0#5 = 0#52 ∧
    ((given.map Prod.fst).Nodup → ∀ (r : Reg) (v : Word), r ≠ 0#5 → (r, v) ∈ given →
      (s.start (program ++ [(base, bytes)]) entry given).reg r = v) ∧
    (∀ r : Reg, r ∉ given.map Prod.fst → (s.start (program ++ [(base, bytes)]) entry given).reg r = s.reg r)
end

