-- ==== Sys2Proof/Laws/Decode.lean ====
section
/-! SUPPORT. The small lemmas of the encoding: each field of each packed format is what was packed, the window of a format of L bytes has no
bit above 13 L, and bytes split from a window join to it again. -/

namespace Sys2Proof

@[simp] theorem fieldOp_packRR (op : BitVec 6) (rt ra rb : Reg) : fieldOp (packRR op rt ra rb) = op := by
  apply BitVec.eq_of_getLsbD_eq
  intro i hi
  simp (disch := omega) only [fieldOp, packRR, BitVec.getLsbD_extractLsb', BitVec.getLsbD_append, if_neg, if_pos, hi, decide_true,
    Bool.true_and]
  congr 1
  omega

@[simp] theorem fieldRt_packRR (op : BitVec 6) (rt ra rb : Reg) : fieldRt (packRR op rt ra rb) = rt := by
  apply BitVec.eq_of_getLsbD_eq
  intro i hi
  simp (disch := omega) only [fieldRt, packRR, BitVec.getLsbD_extractLsb', BitVec.getLsbD_append, if_neg, if_pos, hi, decide_true,
    Bool.true_and]
  congr 1
  omega

@[simp] theorem fieldRa_packRR (op : BitVec 6) (rt ra rb : Reg) : fieldRa (packRR op rt ra rb) = ra := by
  apply BitVec.eq_of_getLsbD_eq
  intro i hi
  simp (disch := omega) only [fieldRa, packRR, BitVec.getLsbD_extractLsb', BitVec.getLsbD_append, if_neg, if_pos, hi, decide_true,
    Bool.true_and]
  congr 1
  omega

@[simp] theorem fieldRb_packRR (op : BitVec 6) (rt ra rb : Reg) : fieldRb (packRR op rt ra rb) = rb := by
  apply BitVec.eq_of_getLsbD_eq
  intro i hi
  simp (disch := omega) only [fieldRb, packRR, BitVec.getLsbD_extractLsb', BitVec.getLsbD_append, if_neg, if_pos, hi, decide_true,
    Bool.true_and]
  congr 1
  omega

@[simp] theorem fieldSel_packRR (op : BitVec 6) (rt ra rb : Reg) : fieldSel (packRR op rt ra rb) = 0#1 := by
  apply BitVec.eq_of_getLsbD_eq
  intro i hi
  simp (disch := omega) only [fieldSel, packRR, BitVec.getLsbD_extractLsb', BitVec.getLsbD_append, if_neg, BitVec.getLsbD_zero, hi, decide_true,
    Bool.true_and]

theorem packRR_lt (op : BitVec 6) (rt ra rb : Reg) : (packRR op rt ra rb).toNat < 2 ^ 26 := by
  apply Nat.lt_pow_two_of_testBit
  intro i hi
  rw [BitVec.testBit_toNat]
  simp (disch := omega) only [packRR, BitVec.getLsbD_append, if_neg, BitVec.getLsbD_zero]

@[simp] theorem fieldOp_packRI9 (op : BitVec 6) (rt ra : Reg) (imm : BitVec 9) : fieldOp (packRI9 op rt ra imm) = op := by
  apply BitVec.eq_of_getLsbD_eq
  intro i hi
  simp (disch := omega) only [fieldOp, packRI9, BitVec.getLsbD_extractLsb', BitVec.getLsbD_append, if_neg, if_pos, hi, decide_true,
    Bool.true_and]
  congr 1
  omega

@[simp] theorem fieldRt_packRI9 (op : BitVec 6) (rt ra : Reg) (imm : BitVec 9) : fieldRt (packRI9 op rt ra imm) = rt := by
  apply BitVec.eq_of_getLsbD_eq
  intro i hi
  simp (disch := omega) only [fieldRt, packRI9, BitVec.getLsbD_extractLsb', BitVec.getLsbD_append, if_neg, if_pos, hi, decide_true,
    Bool.true_and]
  congr 1
  omega

@[simp] theorem fieldRa_packRI9 (op : BitVec 6) (rt ra : Reg) (imm : BitVec 9) : fieldRa (packRI9 op rt ra imm) = ra := by
  apply BitVec.eq_of_getLsbD_eq
  intro i hi
  simp (disch := omega) only [fieldRa, packRI9, BitVec.getLsbD_extractLsb', BitVec.getLsbD_append, if_neg, if_pos, hi, decide_true,
    Bool.true_and]
  congr 1
  omega

@[simp] theorem fieldImm9_packRI9 (op : BitVec 6) (rt ra : Reg) (imm : BitVec 9) : fieldImm9 (packRI9 op rt ra imm) = imm := by
  apply BitVec.eq_of_getLsbD_eq
  intro i hi
  simp (disch := omega) only [fieldImm9, packRI9, BitVec.getLsbD_extractLsb', BitVec.getLsbD_append, if_neg, if_pos, hi, decide_true,
    Bool.true_and]
  congr 1
  omega

@[simp] theorem fieldSel_packRI9 (op : BitVec 6) (rt ra : Reg) (imm : BitVec 9) : fieldSel (packRI9 op rt ra imm) = 1#1 := by
  apply BitVec.eq_of_getLsbD_eq
  intro i hi
  simp (disch := omega) only [fieldSel, packRI9, BitVec.getLsbD_extractLsb', BitVec.getLsbD_append, if_neg, if_pos, hi, decide_true,
    Bool.true_and]
  congr 1
  omega

theorem packRI9_lt (op : BitVec 6) (rt ra : Reg) (imm : BitVec 9) : (packRI9 op rt ra imm).toNat < 2 ^ 26 := by
  apply Nat.lt_pow_two_of_testBit
  intro i hi
  rw [BitVec.testBit_toNat]
  simp (disch := omega) only [packRI9, BitVec.getLsbD_append, if_neg, BitVec.getLsbD_zero]

@[simp] theorem fieldOp_packRI23 (op : BitVec 6) (rt ra : Reg) (imm : BitVec 23) : fieldOp (packRI23 op rt ra imm) = op := by
  apply BitVec.eq_of_getLsbD_eq
  intro i hi
  simp (disch := omega) only [fieldOp, packRI23, BitVec.getLsbD_extractLsb', BitVec.getLsbD_append, if_neg, if_pos, hi, decide_true,
    Bool.true_and]
  congr 1
  omega

@[simp] theorem fieldRt_packRI23 (op : BitVec 6) (rt ra : Reg) (imm : BitVec 23) : fieldRt (packRI23 op rt ra imm) = rt := by
  apply BitVec.eq_of_getLsbD_eq
  intro i hi
  simp (disch := omega) only [fieldRt, packRI23, BitVec.getLsbD_extractLsb', BitVec.getLsbD_append, if_neg, if_pos, hi, decide_true,
    Bool.true_and]
  congr 1
  omega

@[simp] theorem fieldRa_packRI23 (op : BitVec 6) (rt ra : Reg) (imm : BitVec 23) : fieldRa (packRI23 op rt ra imm) = ra := by
  apply BitVec.eq_of_getLsbD_eq
  intro i hi
  simp (disch := omega) only [fieldRa, packRI23, BitVec.getLsbD_extractLsb', BitVec.getLsbD_append, if_neg, if_pos, hi, decide_true,
    Bool.true_and]
  congr 1
  omega

@[simp] theorem fieldImm23_packRI23 (op : BitVec 6) (rt ra : Reg) (imm : BitVec 23) : fieldImm23 (packRI23 op rt ra imm) = imm := by
  apply BitVec.eq_of_getLsbD_eq
  intro i hi
  simp (disch := omega) only [fieldImm23, packRI23, BitVec.getLsbD_extractLsb', BitVec.getLsbD_append, if_neg, if_pos, hi, decide_true,
    Bool.true_and]
  congr 1
  omega

theorem packRI23_lt (op : BitVec 6) (rt ra : Reg) (imm : BitVec 23) : (packRI23 op rt ra imm).toNat < 2 ^ 39 := by
  apply Nat.lt_pow_two_of_testBit
  intro i hi
  rw [BitVec.testBit_toNat]
  simp (disch := omega) only [packRI23, BitVec.getLsbD_append, if_neg, BitVec.getLsbD_zero]

@[simp] theorem fieldOp_packRI36 (op : BitVec 6) (rt ra : Reg) (imm : BitVec 36) : fieldOp (packRI36 op rt ra imm) = op := by
  apply BitVec.eq_of_getLsbD_eq
  intro i hi
  simp (disch := omega) only [fieldOp, packRI36, BitVec.getLsbD_extractLsb', BitVec.getLsbD_append, if_neg, if_pos, hi, decide_true,
    Bool.true_and]
  congr 1
  omega

@[simp] theorem fieldRt_packRI36 (op : BitVec 6) (rt ra : Reg) (imm : BitVec 36) : fieldRt (packRI36 op rt ra imm) = rt := by
  apply BitVec.eq_of_getLsbD_eq
  intro i hi
  simp (disch := omega) only [fieldRt, packRI36, BitVec.getLsbD_extractLsb', BitVec.getLsbD_append, if_neg, if_pos, hi, decide_true,
    Bool.true_and]
  congr 1
  omega

@[simp] theorem fieldRa_packRI36 (op : BitVec 6) (rt ra : Reg) (imm : BitVec 36) : fieldRa (packRI36 op rt ra imm) = ra := by
  apply BitVec.eq_of_getLsbD_eq
  intro i hi
  simp (disch := omega) only [fieldRa, packRI36, BitVec.getLsbD_extractLsb', BitVec.getLsbD_append, if_neg, if_pos, hi, decide_true,
    Bool.true_and]
  congr 1
  omega

@[simp] theorem fieldImm36_packRI36 (op : BitVec 6) (rt ra : Reg) (imm : BitVec 36) : fieldImm36 (packRI36 op rt ra imm) = imm := by
  apply BitVec.eq_of_getLsbD_eq
  intro i hi
  simp (disch := omega) only [fieldImm36, packRI36, BitVec.getLsbD_extractLsb', BitVec.getLsbD_append, if_neg, hi, decide_true,
    Bool.true_and]
  congr 1
  omega

@[simp] theorem fieldOp_packSI6 (op : BitVec 6) (rt ra : Reg) (imm : BitVec 6) : fieldOp (packSI6 op rt ra imm) = op := by
  apply BitVec.eq_of_getLsbD_eq
  intro i hi
  simp (disch := omega) only [fieldOp, packSI6, BitVec.getLsbD_extractLsb', BitVec.getLsbD_append, if_neg, if_pos, hi, decide_true,
    Bool.true_and]
  congr 1
  omega

@[simp] theorem fieldRt_packSI6 (op : BitVec 6) (rt ra : Reg) (imm : BitVec 6) : fieldRt (packSI6 op rt ra imm) = rt := by
  apply BitVec.eq_of_getLsbD_eq
  intro i hi
  simp (disch := omega) only [fieldRt, packSI6, BitVec.getLsbD_extractLsb', BitVec.getLsbD_append, if_neg, if_pos, hi, decide_true,
    Bool.true_and]
  congr 1
  omega

@[simp] theorem fieldRa_packSI6 (op : BitVec 6) (rt ra : Reg) (imm : BitVec 6) : fieldRa (packSI6 op rt ra imm) = ra := by
  apply BitVec.eq_of_getLsbD_eq
  intro i hi
  simp (disch := omega) only [fieldRa, packSI6, BitVec.getLsbD_extractLsb', BitVec.getLsbD_append, if_neg, if_pos, hi, decide_true,
    Bool.true_and]
  congr 1
  omega

@[simp] theorem fieldImm6_packSI6 (op : BitVec 6) (rt ra : Reg) (imm : BitVec 6) : fieldImm6 (packSI6 op rt ra imm) = imm := by
  apply BitVec.eq_of_getLsbD_eq
  intro i hi
  simp (disch := omega) only [fieldImm6, packSI6, BitVec.getLsbD_extractLsb', BitVec.getLsbD_append, if_neg, if_pos, hi, decide_true,
    Bool.true_and]
  congr 1
  omega

@[simp] theorem fieldSel_packSI6 (op : BitVec 6) (rt ra : Reg) (imm : BitVec 6) : fieldSel (packSI6 op rt ra imm) = 1#1 := by
  apply BitVec.eq_of_getLsbD_eq
  intro i hi
  simp (disch := omega) only [fieldSel, packSI6, BitVec.getLsbD_extractLsb', BitVec.getLsbD_append, if_neg, if_pos, hi, decide_true,
    Bool.true_and]
  congr 1
  omega

theorem packSI6_lt (op : BitVec 6) (rt ra : Reg) (imm : BitVec 6) : (packSI6 op rt ra imm).toNat < 2 ^ 26 := by
  apply Nat.lt_pow_two_of_testBit
  intro i hi
  rw [BitVec.testBit_toNat]
  simp (disch := omega) only [packSI6, BitVec.getLsbD_append, if_neg, BitVec.getLsbD_zero]

@[simp] theorem fieldOp_packAbs46 (op : BitVec 6) (addr : BitVec 46) : fieldOp (packAbs46 op addr) = op := by
  apply BitVec.eq_of_getLsbD_eq
  intro i hi
  simp (disch := omega) only [fieldOp, packAbs46, BitVec.getLsbD_extractLsb', BitVec.getLsbD_append, if_pos, hi, decide_true,
    Bool.true_and]
  congr 1
  omega

@[simp] theorem fieldAddr46_packAbs46 (op : BitVec 6) (addr : BitVec 46) : fieldAddr46 (packAbs46 op addr) = addr := by
  apply BitVec.eq_of_getLsbD_eq
  intro i hi
  simp (disch := omega) only [fieldAddr46, packAbs46, BitVec.getLsbD_extractLsb', BitVec.getLsbD_append, if_neg, hi, decide_true,
    Bool.true_and]
  congr 1
  omega

@[simp] theorem fieldOp_packR1 (op : BitVec 6) (r : Reg) : fieldOp (packR1 op r) = op := by
  apply BitVec.eq_of_getLsbD_eq
  intro i hi
  simp (disch := omega) only [fieldOp, packR1, BitVec.getLsbD_extractLsb', BitVec.getLsbD_append, if_neg, if_pos, hi, decide_true,
    Bool.true_and]
  congr 1
  omega

@[simp] theorem fieldRt_packR1 (op : BitVec 6) (r : Reg) : fieldRt (packR1 op r) = r := by
  apply BitVec.eq_of_getLsbD_eq
  intro i hi
  simp (disch := omega) only [fieldRt, packR1, BitVec.getLsbD_extractLsb', BitVec.getLsbD_append, if_neg, if_pos, hi, decide_true,
    Bool.true_and]
  congr 1
  omega

theorem packR1_lt (op : BitVec 6) (r : Reg) : (packR1 op r).toNat < 2 ^ 13 := by
  apply Nat.lt_pow_two_of_testBit
  intro i hi
  rw [BitVec.testBit_toNat]
  simp (disch := omega) only [packR1, BitVec.getLsbD_append, if_neg, BitVec.getLsbD_zero]

@[simp] theorem fieldOp_packF1 (op : BitVec 6) (fn : BitVec 3) (x : BitVec 4) : fieldOp (packF1 op fn x) = op := by
  apply BitVec.eq_of_getLsbD_eq
  intro i hi
  simp (disch := omega) only [fieldOp, packF1, BitVec.getLsbD_extractLsb', BitVec.getLsbD_append, if_neg, if_pos, hi, decide_true,
    Bool.true_and]
  congr 1
  omega

@[simp] theorem fieldFn3_packF1 (op : BitVec 6) (fn : BitVec 3) (x : BitVec 4) : fieldFn3 (packF1 op fn x) = fn := by
  apply BitVec.eq_of_getLsbD_eq
  intro i hi
  simp (disch := omega) only [fieldFn3, packF1, BitVec.getLsbD_extractLsb', BitVec.getLsbD_append, if_neg, if_pos, hi, decide_true,
    Bool.true_and]
  congr 1
  omega

@[simp] theorem fieldDisp4_packF1 (op : BitVec 6) (fn : BitVec 3) (x : BitVec 4) : fieldDisp4 (packF1 op fn x) = x := by
  apply BitVec.eq_of_getLsbD_eq
  intro i hi
  simp (disch := omega) only [fieldDisp4, packF1, BitVec.getLsbD_extractLsb', BitVec.getLsbD_append, if_neg, if_pos, hi, decide_true,
    Bool.true_and]
  congr 1
  omega

theorem packF1_lt (op : BitVec 6) (fn : BitVec 3) (x : BitVec 4) : (packF1 op fn x).toNat < 2 ^ 13 := by
  apply Nat.lt_pow_two_of_testBit
  intro i hi
  rw [BitVec.testBit_toNat]
  simp (disch := omega) only [packF1, BitVec.getLsbD_append, if_neg, BitVec.getLsbD_zero]

@[simp] theorem fieldOp_packB17 (op : BitVec 6) (cond : BitVec 3) (disp : BitVec 17) : fieldOp (packB17 op cond disp) = op := by
  apply BitVec.eq_of_getLsbD_eq
  intro i hi
  simp (disch := omega) only [fieldOp, packB17, BitVec.getLsbD_extractLsb', BitVec.getLsbD_append, if_neg, if_pos, hi, decide_true,
    Bool.true_and]
  congr 1
  omega

@[simp] theorem fieldFn3_packB17 (op : BitVec 6) (cond : BitVec 3) (disp : BitVec 17) : fieldFn3 (packB17 op cond disp) = cond := by
  apply BitVec.eq_of_getLsbD_eq
  intro i hi
  simp (disch := omega) only [fieldFn3, packB17, BitVec.getLsbD_extractLsb', BitVec.getLsbD_append, if_neg, if_pos, hi, decide_true,
    Bool.true_and]
  congr 1
  omega

@[simp] theorem fieldDisp17_packB17 (op : BitVec 6) (cond : BitVec 3) (disp : BitVec 17) : fieldDisp17 (packB17 op cond disp) = disp := by
  apply BitVec.eq_of_getLsbD_eq
  intro i hi
  simp (disch := omega) only [fieldDisp17, packB17, BitVec.getLsbD_extractLsb', BitVec.getLsbD_append, if_neg, if_pos, hi, decide_true,
    Bool.true_and]
  congr 1
  omega

theorem packB17_lt (op : BitVec 6) (cond : BitVec 3) (disp : BitVec 17) : (packB17 op cond disp).toNat < 2 ^ 26 := by
  apply Nat.lt_pow_two_of_testBit
  intro i hi
  rw [BitVec.testBit_toNat]
  simp (disch := omega) only [packB17, BitVec.getLsbD_append, if_neg, BitVec.getLsbD_zero]

@[simp] theorem fieldOp_packM7 (op : BitVec 6) (mask : BitVec 7) : fieldOp (packM7 op mask) = op := by
  apply BitVec.eq_of_getLsbD_eq
  intro i hi
  simp (disch := omega) only [fieldOp, packM7, BitVec.getLsbD_extractLsb', BitVec.getLsbD_append, if_neg, if_pos, hi, decide_true,
    Bool.true_and]
  congr 1
  omega

@[simp] theorem fieldMask7_packM7 (op : BitVec 6) (mask : BitVec 7) : fieldMask7 (packM7 op mask) = mask := by
  apply BitVec.eq_of_getLsbD_eq
  intro i hi
  simp (disch := omega) only [fieldMask7, packM7, BitVec.getLsbD_extractLsb', BitVec.getLsbD_append, if_neg, if_pos, hi, decide_true,
    Bool.true_and]
  congr 1
  omega

theorem packM7_lt (op : BitVec 6) (mask : BitVec 7) : (packM7 op mask).toNat < 2 ^ 13 := by
  apply Nat.lt_pow_two_of_testBit
  intro i hi
  rw [BitVec.testBit_toNat]
  simp (disch := omega) only [packM7, BitVec.getLsbD_append, if_neg, BitVec.getLsbD_zero]

@[simp] theorem splitBytes_length (n : Nat) (ins : BitVec 52) : (splitBytes n ins).length = n := by
  induction n generalizing ins with
  | zero => rfl
  | succ n ih => simp [splitBytes, ih]

/-- The bytes split from a window join to it, when the window has no bit above them (R51, R57). -/
theorem joinBytes_splitBytes (n : Nat) (ins : BitVec 52) (h : ins.toNat < 2 ^ (13 * n)) : joinBytes (splitBytes n ins) = ins := by
  induction n generalizing ins with
  | zero =>
    have h0 : ins.toNat = 0 := by
      have : ins.toNat < 1 := h
      omega
    exact (BitVec.eq_of_toNat_eq (h0.trans rfl)).symm
  | succ n ih =>
    have hlt : (ins >>> 13).toNat < 2 ^ (13 * n) := by
      rw [BitVec.toNat_ushiftRight, Nat.shiftRight_eq_div_pow, Nat.div_lt_iff_lt_mul (by decide), ← Nat.pow_add]
      exact h
    simp only [splitBytes, joinBytes, ih _ hlt]
    apply BitVec.eq_of_getLsbD_eq
    intro i hi
    simp only [BitVec.getLsbD_or, BitVec.getLsbD_setWidth, BitVec.getLsbD_extractLsb', BitVec.getLsbD_shiftLeft,
      BitVec.getLsbD_ushiftRight]
    by_cases h13 : i < 13
    · simp [hi, h13]
    · have : 13 + (i - 13) = i := by omega
      simp [hi, h13, this]

/-- The first byte of a window holds its opcode (R80). -/
theorem opcodeOfByte_first (ins : BitVec 52) : opcodeOfByte (ins.extractLsb' 0 13) = fieldOp ins := by
  apply BitVec.eq_of_getLsbD_eq
  intro i hi
  simp only [opcodeOfByte, fieldOp, BitVec.getLsbD_extractLsb', hi, decide_true, Bool.true_and, Nat.zero_add]
  simp only [Bool.and_eq_right_iff_imp, decide_eq_true_eq]
  omega

/-- Decoding the bytes of a window is decoding the window, when its opcode has that length (R103). -/
theorem decode_splitBytes (n : Nat) (ins : BitVec 52) (hn : 0 < n) (hlen : opcodeLength (fieldOp ins) = some n)
    (hlt : ins.toNat < 2 ^ (13 * n)) : decode (splitBytes n ins) = decodeIns ins := by
  obtain ⟨m, rfl⟩ : ∃ m, n = m + 1 := ⟨n - 1, by omega⟩
  have hjoin := joinBytes_splitBytes (m + 1) ins hlt
  have htake : (splitBytes (m + 1) ins).take (m + 1) = splitBytes (m + 1) ins :=
    List.take_of_length_le (by simp)
  have hl : ¬ (splitBytes (m + 1) ins).length < m + 1 := by simp
  have hd : decode (splitBytes (m + 1) ins) =
      match opcodeLength (opcodeOfByte (ins.extractLsb' 0 13)) with
      | none => .error (.unassignedOpcode (opcodeOfByte (ins.extractLsb' 0 13)))
      | some len => if (splitBytes (m + 1) ins).length < len then .error .truncated
        else decodeIns (joinBytes ((splitBytes (m + 1) ins).take len)) := rfl
  rw [hd, opcodeOfByte_first, hlen]
  simp only [hl, if_false, htake, hjoin]

end Sys2Proof
end

