-- ==== Sys2Proof/Laws/State.lean ====
section
/-! SUPPORT. The small lemmas of the state record: what each update leaves in each field and in each read, tagged for simp, so that
no proof unfolds an update. -/

namespace Sys2Proof.Machine

@[simp] theorem State.setFlags_regs (s : State) (f : Flags) : (s.setFlags f).regs = s.regs := rfl
@[simp] theorem State.setFlags_pc (s : State) (f : Flags) : (s.setFlags f).pc = s.pc := rfl
@[simp] theorem State.setFlags_flags (s : State) (f : Flags) : (s.setFlags f).flags = f := rfl
@[simp] theorem State.setFlags_run (s : State) (f : Flags) : (s.setFlags f).run = s.run := rfl
@[simp] theorem State.setFlags_mem (s : State) (f : Flags) : (s.setFlags f).mem = s.mem := rfl
@[simp] theorem State.setFlags_inputs (s : State) (f : Flags) : (s.setFlags f).inputs = s.inputs := rfl
@[simp] theorem State.setFlags_overwritten (s : State) (f : Flags) : (s.setFlags f).overwritten = s.overwritten := rfl
@[simp] theorem State.setFlags_tick (s : State) (f : Flags) : (s.setFlags f).tick = s.tick := rfl

@[simp] theorem State.setPc_regs (s : State) (t : Word) : (s.setPc t).regs = s.regs := rfl
@[simp] theorem State.setPc_pc (s : State) (t : Word) : (s.setPc t).pc = t := rfl
@[simp] theorem State.setPc_flags (s : State) (t : Word) : (s.setPc t).flags = s.flags := rfl
@[simp] theorem State.setPc_run (s : State) (t : Word) : (s.setPc t).run = s.run := rfl
@[simp] theorem State.setPc_mem (s : State) (t : Word) : (s.setPc t).mem = s.mem := rfl
@[simp] theorem State.setPc_inputs (s : State) (t : Word) : (s.setPc t).inputs = s.inputs := rfl
@[simp] theorem State.setPc_overwritten (s : State) (t : Word) : (s.setPc t).overwritten = s.overwritten := rfl
@[simp] theorem State.setPc_tick (s : State) (t : Word) : (s.setPc t).tick = s.tick := rfl

@[simp] theorem State.advance_regs (s : State) (len : Nat) : (s.advance len).regs = s.regs := rfl
@[simp] theorem State.advance_pc (s : State) (len : Nat) : (s.advance len).pc = s.npc len := rfl
@[simp] theorem State.advance_flags (s : State) (len : Nat) : (s.advance len).flags = s.flags := rfl
@[simp] theorem State.advance_run (s : State) (len : Nat) : (s.advance len).run = s.run := rfl
@[simp] theorem State.advance_mem (s : State) (len : Nat) : (s.advance len).mem = s.mem := rfl
@[simp] theorem State.advance_inputs (s : State) (len : Nat) : (s.advance len).inputs = s.inputs := rfl
@[simp] theorem State.advance_overwritten (s : State) (len : Nat) : (s.advance len).overwritten = s.overwritten := rfl
@[simp] theorem State.advance_tick (s : State) (len : Nat) : (s.advance len).tick = s.tick := rfl

@[simp] theorem State.loadSr_regs (s : State) (w : Word) : (s.loadSr w).regs = s.regs := rfl
@[simp] theorem State.loadSr_pc (s : State) (w : Word) : (s.loadSr w).pc = s.pc := rfl
@[simp] theorem State.loadSr_flags (s : State) (w : Word) : (s.loadSr w).flags = Flags.ofImage config.srLayout w := rfl
@[simp] theorem State.loadSr_run (s : State) (w : Word) : (s.loadSr w).run = s.run := rfl
@[simp] theorem State.loadSr_mem (s : State) (w : Word) : (s.loadSr w).mem = s.mem := rfl
@[simp] theorem State.loadSr_inputs (s : State) (w : Word) : (s.loadSr w).inputs = s.inputs := rfl
@[simp] theorem State.loadSr_overwritten (s : State) (w : Word) : (s.loadSr w).overwritten = s.overwritten := rfl
@[simp] theorem State.loadSr_tick (s : State) (w : Word) : (s.loadSr w).tick = s.tick := rfl

@[simp] theorem State.setReg_pc (s : State) (r : Reg) (v : Word) : (s.setReg r v).pc = s.pc := by unfold State.setReg; split <;> rfl
@[simp] theorem State.setReg_flags (s : State) (r : Reg) (v : Word) : (s.setReg r v).flags = s.flags := by unfold State.setReg; split <;> rfl
@[simp] theorem State.setReg_run (s : State) (r : Reg) (v : Word) : (s.setReg r v).run = s.run := by unfold State.setReg; split <;> rfl
@[simp] theorem State.setReg_mem (s : State) (r : Reg) (v : Word) : (s.setReg r v).mem = s.mem := by unfold State.setReg; split <;> rfl
@[simp] theorem State.setReg_inputs (s : State) (r : Reg) (v : Word) : (s.setReg r v).inputs = s.inputs := by unfold State.setReg; split <;> rfl
@[simp] theorem State.setReg_overwritten (s : State) (r : Reg) (v : Word) : (s.setReg r v).overwritten = s.overwritten := by unfold State.setReg; split <;> rfl
@[simp] theorem State.setReg_tick (s : State) (r : Reg) (v : Word) : (s.setReg r v).tick = s.tick := by unfold State.setReg; split <;> rfl

@[simp] theorem State.putByte_regs (s : State) (a : Word) (v : Byte) : (s.putByte a v).regs = s.regs := rfl
@[simp] theorem State.putByte_pc (s : State) (a : Word) (v : Byte) : (s.putByte a v).pc = s.pc := rfl
@[simp] theorem State.putByte_flags (s : State) (a : Word) (v : Byte) : (s.putByte a v).flags = s.flags := rfl
@[simp] theorem State.putByte_run (s : State) (a : Word) (v : Byte) : (s.putByte a v).run = s.run := rfl
@[simp] theorem State.putByte_mem (s : State) (a : Word) (v : Byte) : (s.putByte a v).mem = s.mem.writeByte a.toNat v := rfl
@[simp] theorem State.putByte_inputs (s : State) (a : Word) (v : Byte) : (s.putByte a v).inputs = s.inputs := rfl
@[simp] theorem State.putByte_tick (s : State) (a : Word) (v : Byte) : (s.putByte a v).tick = s.tick := rfl

@[simp] theorem State.putWord_regs (s : State) (a v : Word) : (s.putWord a v).regs = s.regs := rfl
@[simp] theorem State.putWord_pc (s : State) (a v : Word) : (s.putWord a v).pc = s.pc := rfl
@[simp] theorem State.putWord_flags (s : State) (a v : Word) : (s.putWord a v).flags = s.flags := rfl
@[simp] theorem State.putWord_run (s : State) (a v : Word) : (s.putWord a v).run = s.run := rfl
@[simp] theorem State.putWord_inputs (s : State) (a v : Word) : (s.putWord a v).inputs = s.inputs := rfl
@[simp] theorem State.putWord_tick (s : State) (a v : Word) : (s.putWord a v).tick = s.tick := rfl

@[simp] theorem State.setFlags_reg (s : State) (f : Flags) (q : Reg) : (s.setFlags f).reg q = s.reg q := rfl
@[simp] theorem State.setPc_reg (s : State) (t : Word) (q : Reg) : (s.setPc t).reg q = s.reg q := rfl
@[simp] theorem State.advance_reg (s : State) (len : Nat) (q : Reg) : (s.advance len).reg q = s.reg q := rfl
@[simp] theorem State.loadSr_reg (s : State) (w : Word) (q : Reg) : (s.loadSr w).reg q = s.reg q := rfl
@[simp] theorem State.putByte_reg (s : State) (a : Word) (v : Byte) (q : Reg) : (s.putByte a v).reg q = s.reg q := rfl
@[simp] theorem State.putWord_reg (s : State) (a v : Word) (q : Reg) : (s.putWord a v).reg q = s.reg q := rfl

@[simp] theorem State.setFlags_byteAt (s : State) (f : Flags) (q : Word) : (s.setFlags f).byteAt q = s.byteAt q := rfl
@[simp] theorem State.setFlags_wordAt (s : State) (f : Flags) (q : Word) : (s.setFlags f).wordAt q = s.wordAt q := rfl
@[simp] theorem State.setPc_byteAt (s : State) (t : Word) (q : Word) : (s.setPc t).byteAt q = s.byteAt q := rfl
@[simp] theorem State.setPc_wordAt (s : State) (t : Word) (q : Word) : (s.setPc t).wordAt q = s.wordAt q := rfl
@[simp] theorem State.advance_byteAt (s : State) (len : Nat) (q : Word) : (s.advance len).byteAt q = s.byteAt q := rfl
@[simp] theorem State.advance_wordAt (s : State) (len : Nat) (q : Word) : (s.advance len).wordAt q = s.wordAt q := rfl
@[simp] theorem State.loadSr_byteAt (s : State) (w : Word) (q : Word) : (s.loadSr w).byteAt q = s.byteAt q := rfl
@[simp] theorem State.loadSr_wordAt (s : State) (w : Word) (q : Word) : (s.loadSr w).wordAt q = s.wordAt q := rfl
@[simp] theorem State.setReg_byteAt (s : State) (r : Reg) (v q : Word) : (s.setReg r v).byteAt q = s.byteAt q := by
  simp [State.byteAt]
@[simp] theorem State.setReg_wordAt (s : State) (r : Reg) (v q : Word) : (s.setReg r v).wordAt q = s.wordAt q := by
  simp [State.wordAt]

@[simp] theorem State.resetTo_regs (s : State) (t : Word) : (s.resetTo t).regs = s.regs := rfl
@[simp] theorem State.resetTo_pc (s : State) (t : Word) : (s.resetTo t).pc = t := rfl
@[simp] theorem State.resetTo_flags (s : State) (t : Word) : (s.resetTo t).flags = { s.flags with i := true, b := false } := rfl
@[simp] theorem State.resetTo_run (s : State) (t : Word) : (s.resetTo t).run = .running := rfl
@[simp] theorem State.resetTo_mem (s : State) (t : Word) : (s.resetTo t).mem = s.mem := rfl
@[simp] theorem State.resetTo_inputs (s : State) (t : Word) : (s.resetTo t).inputs = s.inputs := rfl
@[simp] theorem State.resetTo_overwritten (s : State) (t : Word) : (s.resetTo t).overwritten = s.overwritten := rfl
@[simp] theorem State.resetTo_tick (s : State) (t : Word) : (s.resetTo t).tick = s.tick := rfl
@[simp] theorem State.resetTo_reg (s : State) (t : Word) (q : Reg) : (s.resetTo t).reg q = s.reg q := rfl
@[simp] theorem State.resetTo_byteAt (s : State) (t q : Word) : (s.resetTo t).byteAt q = s.byteAt q := rfl

/-- R0 reads as zero (R21). -/
@[simp] theorem State.reg_zero (s : State) : s.reg 0#5 = 0#52 := rfl

/-- A register read after a write (R21): R0 stays 0, the register written has the value, every other one is as before. -/
theorem State.setReg_reg (s : State) (r q : Reg) (v : Word) :
    (s.setReg r v).reg q = if q = 0#5 then 0#52 else if q = r then v else s.reg q := by
  unfold State.setReg State.reg
  by_cases hq : q = 0#5
  · simp [hq]
  · by_cases hr : r = 0#5
    · subst hr
      simp [hq]
    · simp only [hq, hr, if_false]
      rw [Vector.getElem_set]
      simp only [BitVec.toNat_inj, eq_comm]

/-- A register other than the one written. -/
theorem State.setReg_reg_ne (s : State) (r q : Reg) (v : Word) (h : q ≠ r) : (s.setReg r v).reg q = s.reg q := by
  rw [State.setReg_reg]
  by_cases hq : q = 0#5
  · simp [hq]
  · simp [hq, h]

/-- The register written, when it is not R0. -/
theorem State.setReg_reg_same (s : State) (r : Reg) (v : Word) (h : r ≠ 0#5) : (s.setReg r v).reg r = v := by
  simp [State.setReg_reg, h]

/-- A write to R0 is discarded (R21). -/
@[simp] theorem State.setReg_zero (s : State) (v : Word) : s.setReg 0#5 v = s := rfl

/-- The stack pointer after a write to it. -/
@[simp] theorem State.setReg_sp (s : State) (v : Word) : (s.setReg sp v).reg sp = v :=
  s.setReg_reg_same sp v (by decide)

end Sys2Proof.Machine
end

