-- ==== Sys2Proof/Laws/Memory.lean ====
section
/-! SUPPORT. Memory: a read after a write, the canonical form and that every write keeps it, and the words. -/

namespace Sys2Proof.Machine

/-- A read after a write: the byte written at its address, every other byte as before (R53, R54). -/
theorem Memory.readByte_writeByte (m : Memory) (a b : Nat) (v : Byte) (h : m.wf) :
    (m.writeByte a v).readByte b = if b = a then v else m.readByte b := by
  induction m with
  | nil =>
    by_cases hv : v = unlistedByte <;> by_cases hb : b = a <;>
      simp [Memory.writeByte, Memory.readByte, hv, hb, eq_comm]
    intro hab
    exact absurd hab.symm hb
  | cons c rest ih =>
    obtain ⟨k, x⟩ := c
    have hrest : Memory.wf rest = true := by
      simp only [Memory.wf, Bool.and_eq_true] at h
      exact h.2
    have hrise : ∀ c ∈ rest, k < c.1 := by
      simp only [Memory.wf, Bool.and_eq_true, List.all_eq_true, decide_eq_true_eq] at h
      exact fun c hc => h.1.2 c hc
    have habsent : ∀ (n : Nat), n ≤ k → Memory.readByte rest n = unlistedByte := by
      intro n hn
      clear ih h hrest
      induction rest with
      | nil => rfl
      | cons d tail ih2 =>
        have hd := hrise d (by simp)
        have hne : d.1 ≠ n := by omega
        simp only [Memory.readByte, hne, if_false]
        exact ih2 (fun c hc => hrise c (List.mem_cons_of_mem _ hc))
    by_cases h1 : a < k
    · have h2 : Memory.readByte ((k, x) :: rest) a = unlistedByte := by
        have : k ≠ a := by omega
        simp only [Memory.readByte, this, if_false]
        exact habsent a (by omega)
      by_cases hv : v = unlistedByte
      · by_cases hb : b = a
        · simp [Memory.writeByte, h1, hv, hb, h2]
        · simp [Memory.writeByte, h1, hv, hb]
      · by_cases hb : b = a
        · simp [Memory.writeByte, h1, hv, hb, Memory.readByte]
        · simp [Memory.writeByte, h1, hv, hb, Memory.readByte, Ne.symm hb]
    · by_cases h2 : a = k
      · subst h2
        by_cases hv : v = unlistedByte
        · by_cases hb : b = a
          · simp [Memory.writeByte, hv, hb, habsent a (by omega)]
          · simp [Memory.writeByte, hv, hb, Memory.readByte, Ne.symm hb]
        · by_cases hb : b = a
          · simp [Memory.writeByte, hv, hb, Memory.readByte]
          · simp [Memory.writeByte, hv, hb, Memory.readByte, Ne.symm hb]
      · by_cases hb : k = b
        · subst hb
          simp [Memory.writeByte, h1, h2, Memory.readByte, Ne.symm h2]
        · simp [Memory.writeByte, h1, h2, Memory.readByte, hb, ih hrest]

/-- A write lists no address but its own beside those listed before. -/
theorem Memory.mem_writeByte (m : Memory) (a : Nat) (v : Byte) (c : Cell) (h : c ∈ m.writeByte a v) :
    c.1 = a ∨ c ∈ m := by
  induction m with
  | nil =>
    by_cases hv : v = unlistedByte <;> simp [Memory.writeByte, hv] at h
    simp [h]
  | cons d rest ih =>
    obtain ⟨k, x⟩ := d
    simp only [Memory.writeByte] at h
    split at h
    · split at h
      · exact .inr h
      · rcases List.mem_cons.mp h with rfl | h
        · exact .inl rfl
        · exact .inr h
    · split at h
      · split at h
        · exact .inr (List.mem_cons_of_mem _ h)
        · rcases List.mem_cons.mp h with rfl | h
          · exact .inl rfl
          · exact .inr (List.mem_cons_of_mem _ h)
      · rcases List.mem_cons.mp h with rfl | h
        · exact .inr (by simp)
        · exact (ih h).imp id (List.mem_cons_of_mem _)

/-- A write below 2^52 keeps the canonical form. -/
theorem Memory.writeByte_wf (m : Memory) (a : Nat) (v : Byte) (ha : a < 2 ^ 52) (h : m.wf) : (m.writeByte a v).wf := by
  induction m with
  | nil =>
    by_cases hv : v = unlistedByte
    · simp [Memory.writeByte, hv, Memory.wf]
    · simp only [Memory.writeByte, hv, if_false, Memory.wf, Bool.and_eq_true, decide_eq_true_eq, bne_iff_ne, ne_eq]
      exact ⟨⟨⟨ha, id⟩, rfl⟩, trivial⟩
  | cons d rest ih =>
    obtain ⟨k, x⟩ := d
    have hw := h
    simp only [Memory.wf, Bool.and_eq_true, decide_eq_true_eq, bne_iff_ne, ne_eq, List.all_eq_true] at h
    obtain ⟨⟨⟨hk, hx⟩, hrise⟩, hrest⟩ := h
    simp only [Memory.writeByte]
    split
    · rename_i h1
      split
      · exact hw
      · rename_i hv
        simp only [Memory.wf, Bool.and_eq_true, decide_eq_true_eq, bne_iff_ne, ne_eq, List.all_eq_true]
        refine ⟨⟨⟨ha, hv⟩, ?_⟩, ⟨⟨⟨hk, hx⟩, hrise⟩, hrest⟩⟩
        intro c hc
        rcases List.mem_cons.mp hc with rfl | hc
        · exact h1
        · exact Nat.lt_trans h1 (hrise c hc)
    · split
      · rename_i h1 h2
        subst h2
        split
        · exact hrest
        · rename_i hv
          simp only [Memory.wf, Bool.and_eq_true, decide_eq_true_eq, bne_iff_ne, ne_eq, List.all_eq_true]
          exact ⟨⟨⟨ha, hv⟩, hrise⟩, hrest⟩
      · rename_i h1 h2
        simp only [Memory.wf, Bool.and_eq_true, decide_eq_true_eq, bne_iff_ne, ne_eq, List.all_eq_true]
        refine ⟨⟨⟨hk, hx⟩, ?_⟩, ih hrest⟩
        intro c hc
        rcases Memory.mem_writeByte rest a v c hc with h3 | h3
        · omega
        · exact hrise c h3

/-- Two canonical memories that read alike everywhere are equal. -/
theorem Memory.ext_of_readByte (m m' : Memory) (h : m.wf) (h' : m'.wf) (heq : ∀ a, m.readByte a = m'.readByte a) :
    m = m' := by
  have absent : ∀ (m : Memory) (a : Nat), (∀ c ∈ m, a < c.1) → m.readByte a = unlistedByte := by
    intro m a
    induction m with
    | nil => intro _; rfl
    | cons d rest ih =>
      intro hd
      have hne : d.1 ≠ a := by
        have := hd d (by simp)
        omega
      simp only [Memory.readByte, hne, if_false]
      exact ih (fun c hc => hd c (List.mem_cons_of_mem _ hc))
  induction m generalizing m' with
  | nil =>
    cases m' with
    | nil => rfl
    | cons d rest =>
      exfalso
      have := heq d.1
      simp only [Memory.wf, Bool.and_eq_true, bne_iff_ne, ne_eq] at h'
      simp only [Memory.readByte, if_true] at this
      exact h'.1.1.2 this.symm
  | cons c tail ih =>
    simp only [Memory.wf, Bool.and_eq_true, decide_eq_true_eq, bne_iff_ne, ne_eq, List.all_eq_true] at h
    cases m' with
    | nil =>
      exfalso
      have := heq c.1
      simp only [Memory.readByte, if_true] at this
      exact h.1.1.2 this
    | cons d rest =>
      simp only [Memory.wf, Bool.and_eq_true, decide_eq_true_eq, bne_iff_ne, ne_eq, List.all_eq_true] at h'
      have hkey : c.1 = d.1 := by
        rcases Nat.lt_trichotomy c.1 d.1 with hlt | heq' | hlt
        · exfalso
          have h1 := heq c.1
          have h2 : Memory.readByte (d :: rest) c.1 = unlistedByte := by
            refine absent _ _ (fun e he => ?_)
            rcases List.mem_cons.mp he with rfl | he
            · exact hlt
            · exact Nat.lt_trans hlt (h'.1.2 e he)
          rw [h2] at h1
          simp only [Memory.readByte, if_true] at h1
          exact h.1.1.2 h1
        · exact heq'
        · exfalso
          have h1 := heq d.1
          have h2 : Memory.readByte (c :: tail) d.1 = unlistedByte := by
            refine absent _ _ (fun e he => ?_)
            rcases List.mem_cons.mp he with rfl | he
            · exact hlt
            · exact Nat.lt_trans hlt (h.1.2 e he)
          rw [h2] at h1
          simp only [Memory.readByte, if_true] at h1
          exact h'.1.1.2 h1.symm
      have hval : c.2 = d.2 := by
        have h1 := heq c.1
        simp only [Memory.readByte, if_true, hkey.symm] at h1
        exact h1
      have htail : tail = rest := by
        refine ih rest h.2 h'.2 (fun a => ?_)
        by_cases ha : c.1 = a
        · rw [absent tail a (fun e he => ha ▸ h.1.2 e he), absent rest a (fun e he => ?_)]
          have := h'.1.2 e he
          omega
        · have h1 := heq a
          have hd : d.1 ≠ a := by omega
          simpa only [Memory.readByte, ha, hd, if_false] using h1
      rw [htail, Prod.ext hkey hval]

/-- A byte of the state after one byte is replaced. -/
theorem State.putByte_byteAt (s : State) (a b : Word) (v : Byte) (h : s.mem.wf) :
    (s.putByte a v).byteAt b = if b = a then v else s.byteAt b := by
  simp only [State.byteAt, State.putByte_mem, Memory.readByte_writeByte _ _ _ _ h, BitVec.toNat_inj]

/-- Replacing a byte keeps the canonical form. -/
theorem State.putByte_wf (s : State) (a : Word) (v : Byte) (h : s.mem.wf) : (s.putByte a v).mem.wf :=
  Memory.writeByte_wf _ _ _ a.isLt h

/-- Replacing a word keeps the canonical form. -/
theorem State.putWord_wf (s : State) (a v : Word) (h : s.mem.wf) : (s.putWord a v).mem.wf :=
  State.putByte_wf _ _ _ (State.putByte_wf _ _ _ (State.putByte_wf _ _ _ (State.putByte_wf _ _ _ h)))

/-- A byte of the state after a word is replaced: byte k of the word at the address plus k (R54). -/
theorem State.putWord_byteAt (s : State) (a v b : Word) (h : s.mem.wf) :
    (s.putWord a v).byteAt b =
      if b = a + 3#52 then byteOfWord v 3 else if b = a + 2#52 then byteOfWord v 2
      else if b = a + 1#52 then byteOfWord v 1 else if b = a then byteOfWord v 0 else s.byteAt b := by
  unfold State.putWord
  have h0 := s.putByte_wf a (byteOfWord v 0) h
  have h1 := State.putByte_wf _ (a + 1#52) (byteOfWord v 1) h0
  have h2 := State.putByte_wf _ (a + 2#52) (byteOfWord v 2) h1
  rw [State.putByte_byteAt _ _ _ _ h2, State.putByte_byteAt _ _ _ _ h1, State.putByte_byteAt _ _ _ _ h0,
    State.putByte_byteAt _ _ _ _ h]

/-- A byte outside a word that is replaced is as before. -/
theorem State.putWord_byteAt_ne (s : State) (a v b : Word) (h : s.mem.wf)
    (h0 : b ≠ a) (h1 : b ≠ a + 1#52) (h2 : b ≠ a + 2#52) (h3 : b ≠ a + 3#52) : (s.putWord a v).byteAt b = s.byteAt b := by
  rw [State.putWord_byteAt _ _ _ _ h]
  simp [h0, h1, h2, h3]

/-- The word at an address is its four bytes, little-endian. -/
theorem State.wordAt_eq (s : State) (a : Word) :
    s.wordAt a = wordOfBytes (s.byteAt a) (s.byteAt (a + 1#52)) (s.byteAt (a + 2#52)) (s.byteAt (a + 3#52)) := rfl

/-- The four bytes of a word joined again. -/
theorem wordOfBytes_byteOfWord (v : Word) :
    wordOfBytes (byteOfWord v 0) (byteOfWord v 1) (byteOfWord v 2) (byteOfWord v 3) = v := by
  unfold wordOfBytes byteOfWord
  apply BitVec.eq_of_getLsbD_eq
  intro i hi
  simp only [BitVec.getLsbD_append, BitVec.getLsbD_extractLsb']
  split
  · rename_i h; simp [h]
  · split
    · rename_i h1 h2
      have : 13 * 1 + (i - 13) = i := by omega
      simp [h2, this]
    · split
      · rename_i h1 h2 h3
        have : 13 * 2 + (i - 13 - 13) = i := by omega
        simp [h3, this]
      · rename_i h1 h2 h3
        have h4 : i - 13 - 13 - 13 < 13 := by omega
        have : 13 * 3 + (i - 13 - 13 - 13) = i := by omega
        simp [h4, this]

/-- A word read where it has just been written (R53, R54), at any address, the last ones of memory among them. -/
theorem State.putWord_wordAt (s : State) (a v : Word) (h : s.mem.wf) : (s.putWord a v).wordAt a = v := by
  have e1 : a + 1#52 ≠ a + 3#52 := by bv_omega
  have e2 : a + 1#52 ≠ a + 2#52 := by bv_omega
  have e3 : a ≠ a + 3#52 := by bv_omega
  have e4 : a ≠ a + 2#52 := by bv_omega
  have e5 : a ≠ a + 1#52 := by bv_omega
  have e6 : a + 2#52 ≠ a + 3#52 := by bv_omega
  rw [State.wordAt_eq, State.putWord_byteAt _ _ _ _ h, State.putWord_byteAt _ _ _ _ h, State.putWord_byteAt _ _ _ _ h,
    State.putWord_byteAt _ _ _ _ h]
  simp only [e1, e2, e3, e4, e5, e6, if_true, if_false]
  exact wordOfBytes_byteOfWord v

end Sys2Proof.Machine
end

