-- ==== Sys2Proof/Laws/Ops.lean ====
section
/-! SUPPORT. What each shared operation can do, said once, under this machine's parameters (Machine/Platform.lean): no access stops. -/

namespace Sys2Proof.Machine

@[simp] theorem checkAddr_ok (a : Word) : checkAddr a = .ok () := rfl

@[simp] theorem checkAlign_ok (a : Word) : checkAlign a = .ok () := by
  unfold checkAlign
  split <;> rfl

@[simp] theorem checkWord_ok (a : Word) : checkWord a = .ok () := by
  simp [checkWord, bind, Except.bind]

@[simp] theorem State.loadByte_eq (s : State) (a : Word) : s.loadByte a = .ok (s.byteAt a) := rfl

@[simp] theorem State.storeByte_eq (s : State) (a : Word) (v : Byte) : s.storeByte a v = .ok (s.putByte a v) := rfl

@[simp] theorem State.loadWord_eq (s : State) (a : Word) : s.loadWord a = .ok (s.wordAt a) := by
  simp [State.loadWord, bind, Except.bind, pure, Except.pure]

@[simp] theorem State.storeWord_eq (s : State) (a v : Word) : s.storeWord a v = .ok (s.putWord a v) := by
  simp [State.storeWord, bind, Except.bind, pure, Except.pure]

/-- The state after push52(v) (R160). -/
def State.pushed (s : State) (v : Word) : State := (s.setReg sp (s.reg sp - 4#52)).putWord (s.reg sp - 4#52) v

/-- push52 moves the stack pointer down by 4 and writes the word there (R160). -/
@[simp] theorem State.push_eq (s : State) (v : Word) : s.push v = .ok (s.pushed v) := by
  simp [State.push, State.pushed]

/-- pop52 answers the word at the stack pointer and moves the pointer up by 4 (R160). -/
@[simp] theorem State.pull_eq (s : State) :
    s.pull = .ok (s.wordAt (s.reg sp), s.setReg sp (s.reg sp + 4#52)) := by
  simp [State.pull, bind, Except.bind, pure, Except.pure]

@[simp] theorem State.pushed_pc (s : State) (v : Word) : (s.pushed v).pc = s.pc := by simp [State.pushed]
@[simp] theorem State.pushed_flags (s : State) (v : Word) : (s.pushed v).flags = s.flags := by simp [State.pushed]
@[simp] theorem State.pushed_run (s : State) (v : Word) : (s.pushed v).run = s.run := by simp [State.pushed]
@[simp] theorem State.pushed_inputs (s : State) (v : Word) : (s.pushed v).inputs = s.inputs := by simp [State.pushed]
@[simp] theorem State.pushed_tick (s : State) (v : Word) : (s.pushed v).tick = s.tick := by simp [State.pushed]
@[simp] theorem State.pushed_sp (s : State) (v : Word) : (s.pushed v).reg sp = s.reg sp - 4#52 := by simp [State.pushed]

/-- A push changes no register but the stack pointer. -/
theorem State.pushed_reg_ne (s : State) (v : Word) (r : Reg) (h : r ≠ sp) : (s.pushed v).reg r = s.reg r := by
  simp [State.pushed, State.setReg_reg_ne _ _ _ _ h]

/-- A push keeps the canonical form of memory. -/
theorem State.pushed_wf (s : State) (v : Word) (h : s.mem.wf) : (s.pushed v).mem.wf :=
  State.putWord_wf _ _ _ (by simpa using h)

/-- The state after TrapEntry(vec, ret, bval) (R233). -/
def State.trapped (s : State) (vec ret : Word) (bval : Bool) : State :=
  let s1 := s.setFlags { s.flags with b := bval }
  let s2 := s1.pushed ret
  let s3 := s2.pushed s1.srWord
  { s3 with flags := { s.flags with b := bval, i := true }, pc := s3.wordAt vec, run := .running }

/-- A trap is always taken, and this is all it does (R233). -/
@[simp] theorem State.trapEntry_eq (s : State) (vec ret : Word) (bval : Bool) :
    s.trapEntry vec ret bval = .ok (s.trapped vec ret bval) := by
  have hsr : (((s.setFlags { s.flags with b := bval }).pushed ret).srWord) = (s.setFlags { s.flags with b := bval }).srWord := by
    simp [State.srWord]
  simp only [State.trapEntry, State.push_eq, State.loadWord_eq, bind, Except.bind, pure, Except.pure, hsr]
  simp [State.trapped, State.setFlags, State.wordAt]

/-- The return from a trap: SR from the word at the stack pointer, pc from the next one, the pointer 8 higher (R175). -/
@[simp] theorem State.trapReturn_eq (s : State) :
    s.trapReturn = .ok ((((s.setReg sp (s.reg sp + 4#52)).loadSr (s.wordAt (s.reg sp))).setReg sp (s.reg sp + 4#52 + 4#52)).setPc
      (s.wordAt (s.reg sp + 4#52))) := by
  simp [State.trapReturn, bind, Except.bind, pure, Except.pure]

/-- The reset event always completes, at the word at VEC_RST (R250); State.resetTo says all it does. -/
@[simp] theorem State.resetEvent_eq (s : State) : s.resetEvent = .ok (s.resetTo (s.wordAt config.vecRst)) := by
  simp [State.resetEvent, bind, Except.bind, pure, Except.pure]

@[simp] theorem finish_ok (s : State) : finish (.ok s) = .next s := rfl

/-- A fetch looks at memory alone where no store has changed the byte (R57, R64). -/
theorem State.fetchView_eq (s : State) (a : Word) (h : s.oldBytes a = []) : s.fetchView a = s.byteAt a := by
  simp [State.fetchView, h]

/-- State.reset is the reset event of a core that has all its other state at 0 (R33, R250). -/
theorem State.reset_is_reset_event :
    State.resetEvent { State.reset with flags := { State.reset.flags with i := false }, pc := 0 } = .ok State.reset := by
  simp [State.reset, State.resetTo, State.setFlags, State.wordAt]

end Sys2Proof.Machine
end

