-- ==== Sys2Proof/Laws/PerInstr.lean ====
section
/-! SUPPORT. A statement about every instruction, one lemma per constructor: the encoding's opcode has the instruction's length and the
encoding has no bit above it (R81). -/

namespace Sys2Proof.Laws.EncodedLength

/-- The opcode that encodeIns writes has the length of R81's table, and every bit of the encoding lies within that length. -/
def Statement (i : Instr) : Prop :=
  opcodeLength (fieldOp (encodeIns i)) = some i.length ∧ (encodeIns i).toNat < 2 ^ (13 * i.length)

theorem addRR (rt : Reg) (ra : Reg) (rb : Reg) : Statement (.addRR rt ra rb) :=
  ⟨(congrArg opcodeLength (fieldOp_packRR ..)).trans rfl, packRR_lt ..⟩

theorem addRI9 (rt : Reg) (ra : Reg) (imm : BitVec 9) : Statement (.addRI9 rt ra imm) :=
  ⟨(congrArg opcodeLength (fieldOp_packRI9 ..)).trans rfl, packRI9_lt ..⟩

theorem addRI23 (rt : Reg) (ra : Reg) (imm : BitVec 23) : Statement (.addRI23 rt ra imm) :=
  ⟨(congrArg opcodeLength (fieldOp_packRI23 ..)).trans rfl, packRI23_lt ..⟩

theorem addRI36 (rt : Reg) (ra : Reg) (imm : BitVec 36) : Statement (.addRI36 rt ra imm) :=
  ⟨(congrArg opcodeLength (fieldOp_packRI36 ..)).trans rfl, BitVec.isLt _⟩

theorem cmpRR (ra : Reg) (rb : Reg) : Statement (.cmpRR ra rb) :=
  ⟨(congrArg opcodeLength (fieldOp_packRR ..)).trans rfl, packRR_lt ..⟩

theorem cmpRI9 (ra : Reg) (imm : BitVec 9) : Statement (.cmpRI9 ra imm) :=
  ⟨(congrArg opcodeLength (fieldOp_packRI9 ..)).trans rfl, packRI9_lt ..⟩

theorem cmpRI23 (ra : Reg) (imm : BitVec 23) : Statement (.cmpRI23 ra imm) :=
  ⟨(congrArg opcodeLength (fieldOp_packRI23 ..)).trans rfl, packRI23_lt ..⟩

theorem cmpRI36 (ra : Reg) (imm : BitVec 36) : Statement (.cmpRI36 ra imm) :=
  ⟨(congrArg opcodeLength (fieldOp_packRI36 ..)).trans rfl, BitVec.isLt _⟩

theorem subRR (rt : Reg) (ra : Reg) (rb : Reg) : Statement (.subRR rt ra rb) :=
  ⟨(congrArg opcodeLength (fieldOp_packRR ..)).trans rfl, packRR_lt ..⟩

theorem subRI9 (rt : Reg) (ra : Reg) (imm : BitVec 9) : Statement (.subRI9 rt ra imm) :=
  ⟨(congrArg opcodeLength (fieldOp_packRI9 ..)).trans rfl, packRI9_lt ..⟩

theorem subRI23 (rt : Reg) (ra : Reg) (imm : BitVec 23) : Statement (.subRI23 rt ra imm) :=
  ⟨(congrArg opcodeLength (fieldOp_packRI23 ..)).trans rfl, packRI23_lt ..⟩

theorem subRI36 (rt : Reg) (ra : Reg) (imm : BitVec 36) : Statement (.subRI36 rt ra imm) :=
  ⟨(congrArg opcodeLength (fieldOp_packRI36 ..)).trans rfl, BitVec.isLt _⟩

theorem bitRR (ra : Reg) (rb : Reg) : Statement (.bitRR ra rb) :=
  ⟨(congrArg opcodeLength (fieldOp_packRR ..)).trans rfl, packRR_lt ..⟩

theorem bitRI9 (ra : Reg) (imm : BitVec 9) : Statement (.bitRI9 ra imm) :=
  ⟨(congrArg opcodeLength (fieldOp_packRI9 ..)).trans rfl, packRI9_lt ..⟩

theorem bitRI23 (ra : Reg) (imm : BitVec 23) : Statement (.bitRI23 ra imm) :=
  ⟨(congrArg opcodeLength (fieldOp_packRI23 ..)).trans rfl, packRI23_lt ..⟩

theorem bitRI36 (ra : Reg) (imm : BitVec 36) : Statement (.bitRI36 ra imm) :=
  ⟨(congrArg opcodeLength (fieldOp_packRI36 ..)).trans rfl, BitVec.isLt _⟩

theorem andRR (rt : Reg) (ra : Reg) (rb : Reg) : Statement (.andRR rt ra rb) :=
  ⟨(congrArg opcodeLength (fieldOp_packRR ..)).trans rfl, packRR_lt ..⟩

theorem andRI9 (rt : Reg) (ra : Reg) (imm : BitVec 9) : Statement (.andRI9 rt ra imm) :=
  ⟨(congrArg opcodeLength (fieldOp_packRI9 ..)).trans rfl, packRI9_lt ..⟩

theorem andRI23 (rt : Reg) (ra : Reg) (imm : BitVec 23) : Statement (.andRI23 rt ra imm) :=
  ⟨(congrArg opcodeLength (fieldOp_packRI23 ..)).trans rfl, packRI23_lt ..⟩

theorem andRI36 (rt : Reg) (ra : Reg) (imm : BitVec 36) : Statement (.andRI36 rt ra imm) :=
  ⟨(congrArg opcodeLength (fieldOp_packRI36 ..)).trans rfl, BitVec.isLt _⟩

theorem orRR (rt : Reg) (ra : Reg) (rb : Reg) : Statement (.orRR rt ra rb) :=
  ⟨(congrArg opcodeLength (fieldOp_packRR ..)).trans rfl, packRR_lt ..⟩

theorem orRI9 (rt : Reg) (ra : Reg) (imm : BitVec 9) : Statement (.orRI9 rt ra imm) :=
  ⟨(congrArg opcodeLength (fieldOp_packRI9 ..)).trans rfl, packRI9_lt ..⟩

theorem orRI23 (rt : Reg) (ra : Reg) (imm : BitVec 23) : Statement (.orRI23 rt ra imm) :=
  ⟨(congrArg opcodeLength (fieldOp_packRI23 ..)).trans rfl, packRI23_lt ..⟩

theorem orRI36 (rt : Reg) (ra : Reg) (imm : BitVec 36) : Statement (.orRI36 rt ra imm) :=
  ⟨(congrArg opcodeLength (fieldOp_packRI36 ..)).trans rfl, BitVec.isLt _⟩

theorem eorRR (rt : Reg) (ra : Reg) (rb : Reg) : Statement (.eorRR rt ra rb) :=
  ⟨(congrArg opcodeLength (fieldOp_packRR ..)).trans rfl, packRR_lt ..⟩

theorem eorRI9 (rt : Reg) (ra : Reg) (imm : BitVec 9) : Statement (.eorRI9 rt ra imm) :=
  ⟨(congrArg opcodeLength (fieldOp_packRI9 ..)).trans rfl, packRI9_lt ..⟩

theorem eorRI23 (rt : Reg) (ra : Reg) (imm : BitVec 23) : Statement (.eorRI23 rt ra imm) :=
  ⟨(congrArg opcodeLength (fieldOp_packRI23 ..)).trans rfl, packRI23_lt ..⟩

theorem eorRI36 (rt : Reg) (ra : Reg) (imm : BitVec 36) : Statement (.eorRI36 rt ra imm) :=
  ⟨(congrArg opcodeLength (fieldOp_packRI36 ..)).trans rfl, BitVec.isLt _⟩

theorem aslRR (rt : Reg) (ra : Reg) (rb : Reg) : Statement (.aslRR rt ra rb) :=
  ⟨(congrArg opcodeLength (fieldOp_packRR ..)).trans rfl, packRR_lt ..⟩

theorem aslSI6 (rt : Reg) (ra : Reg) (imm : BitVec 6) : Statement (.aslSI6 rt ra imm) :=
  ⟨(congrArg opcodeLength (fieldOp_packSI6 ..)).trans rfl, packSI6_lt ..⟩

theorem rolRR (rt : Reg) (ra : Reg) (rb : Reg) : Statement (.rolRR rt ra rb) :=
  ⟨(congrArg opcodeLength (fieldOp_packRR ..)).trans rfl, packRR_lt ..⟩

theorem rolSI6 (rt : Reg) (ra : Reg) (imm : BitVec 6) : Statement (.rolSI6 rt ra imm) :=
  ⟨(congrArg opcodeLength (fieldOp_packSI6 ..)).trans rfl, packSI6_lt ..⟩

theorem lsrRR (rt : Reg) (ra : Reg) (rb : Reg) : Statement (.lsrRR rt ra rb) :=
  ⟨(congrArg opcodeLength (fieldOp_packRR ..)).trans rfl, packRR_lt ..⟩

theorem lsrSI6 (rt : Reg) (ra : Reg) (imm : BitVec 6) : Statement (.lsrSI6 rt ra imm) :=
  ⟨(congrArg opcodeLength (fieldOp_packSI6 ..)).trans rfl, packSI6_lt ..⟩

theorem rorRR (rt : Reg) (ra : Reg) (rb : Reg) : Statement (.rorRR rt ra rb) :=
  ⟨(congrArg opcodeLength (fieldOp_packRR ..)).trans rfl, packRR_lt ..⟩

theorem rorSI6 (rt : Reg) (ra : Reg) (imm : BitVec 6) : Statement (.rorSI6 rt ra imm) :=
  ⟨(congrArg opcodeLength (fieldOp_packSI6 ..)).trans rfl, packSI6_lt ..⟩

theorem ldRR (rt : Reg) (ra : Reg) (rb : Reg) : Statement (.ldRR rt ra rb) :=
  ⟨(congrArg opcodeLength (fieldOp_packRR ..)).trans rfl, packRR_lt ..⟩

theorem ldRI9 (rt : Reg) (ra : Reg) (disp : BitVec 9) : Statement (.ldRI9 rt ra disp) :=
  ⟨(congrArg opcodeLength (fieldOp_packRI9 ..)).trans rfl, packRI9_lt ..⟩

theorem ldRI23 (rt : Reg) (ra : Reg) (disp : BitVec 23) : Statement (.ldRI23 rt ra disp) :=
  ⟨(congrArg opcodeLength (fieldOp_packRI23 ..)).trans rfl, packRI23_lt ..⟩

theorem ldRI36 (rt : Reg) (ra : Reg) (disp : BitVec 36) : Statement (.ldRI36 rt ra disp) :=
  ⟨(congrArg opcodeLength (fieldOp_packRI36 ..)).trans rfl, BitVec.isLt _⟩

theorem ldbRI36 (rt : Reg) (ra : Reg) (disp : BitVec 36) : Statement (.ldbRI36 rt ra disp) :=
  ⟨(congrArg opcodeLength (fieldOp_packRI36 ..)).trans rfl, BitVec.isLt _⟩

theorem stRR (rs : Reg) (ra : Reg) (rb : Reg) : Statement (.stRR rs ra rb) :=
  ⟨(congrArg opcodeLength (fieldOp_packRR ..)).trans rfl, packRR_lt ..⟩

theorem stRI9 (rs : Reg) (ra : Reg) (disp : BitVec 9) : Statement (.stRI9 rs ra disp) :=
  ⟨(congrArg opcodeLength (fieldOp_packRI9 ..)).trans rfl, packRI9_lt ..⟩

theorem stRI23 (rs : Reg) (ra : Reg) (disp : BitVec 23) : Statement (.stRI23 rs ra disp) :=
  ⟨(congrArg opcodeLength (fieldOp_packRI23 ..)).trans rfl, packRI23_lt ..⟩

theorem stRI36 (rs : Reg) (ra : Reg) (disp : BitVec 36) : Statement (.stRI36 rs ra disp) :=
  ⟨(congrArg opcodeLength (fieldOp_packRI36 ..)).trans rfl, BitVec.isLt _⟩

theorem stbRI36 (rs : Reg) (ra : Reg) (disp : BitVec 36) : Statement (.stbRI36 rs ra disp) :=
  ⟨(congrArg opcodeLength (fieldOp_packRI36 ..)).trans rfl, BitVec.isLt _⟩

theorem jmpAbs46 (addr : BitVec 46) : Statement (.jmpAbs46 addr) :=
  ⟨(congrArg opcodeLength (fieldOp_packAbs46 ..)).trans rfl, BitVec.isLt _⟩

theorem jsrAbs46 (addr : BitVec 46) : Statement (.jsrAbs46 addr) :=
  ⟨(congrArg opcodeLength (fieldOp_packAbs46 ..)).trans rfl, BitVec.isLt _⟩

theorem jmpReg (ra : Reg) : Statement (.jmpReg ra) :=
  ⟨(congrArg opcodeLength (fieldOp_packR1 ..)).trans rfl, packR1_lt ..⟩

theorem jsrReg (ra : Reg) : Statement (.jsrReg ra) :=
  ⟨(congrArg opcodeLength (fieldOp_packR1 ..)).trans rfl, packR1_lt ..⟩

theorem rts : Statement .rts :=
  ⟨(congrArg opcodeLength (fieldOp_packF1 ..)).trans rfl, packF1_lt ..⟩

theorem rti : Statement .rti :=
  ⟨(congrArg opcodeLength (fieldOp_packF1 ..)).trans rfl, packF1_lt ..⟩

theorem pfi : Statement .pfi :=
  ⟨(congrArg opcodeLength (fieldOp_packF1 ..)).trans rfl, packF1_lt ..⟩

theorem wai : Statement .wai :=
  ⟨(congrArg opcodeLength (fieldOp_packF1 ..)).trans rfl, packF1_lt ..⟩

theorem stp : Statement .stp :=
  ⟨(congrArg opcodeLength (fieldOp_packF1 ..)).trans rfl, packF1_lt ..⟩

theorem nop : Statement .nop :=
  ⟨(congrArg opcodeLength (fieldOp_packF1 ..)).trans rfl, packF1_lt ..⟩

theorem rst : Statement .rst :=
  ⟨(congrArg opcodeLength (fieldOp_packF1 ..)).trans rfl, packF1_lt ..⟩

theorem nmi : Statement .nmi :=
  ⟨(congrArg opcodeLength (fieldOp_packF1 ..)).trans rfl, packF1_lt ..⟩

theorem irq : Statement .irq :=
  ⟨(congrArg opcodeLength (fieldOp_packF1 ..)).trans rfl, packF1_lt ..⟩

theorem brk (const4 : BitVec 4) : Statement (.brk const4) :=
  ⟨(congrArg opcodeLength (fieldOp_packF1 ..)).trans rfl, packF1_lt ..⟩

theorem beqD4 (disp : BitVec 4) : Statement (.beqD4 disp) :=
  ⟨(congrArg opcodeLength (fieldOp_packF1 ..)).trans rfl, packF1_lt ..⟩

theorem bneD4 (disp : BitVec 4) : Statement (.bneD4 disp) :=
  ⟨(congrArg opcodeLength (fieldOp_packF1 ..)).trans rfl, packF1_lt ..⟩

theorem bplD4 (disp : BitVec 4) : Statement (.bplD4 disp) :=
  ⟨(congrArg opcodeLength (fieldOp_packF1 ..)).trans rfl, packF1_lt ..⟩

theorem bmiD4 (disp : BitVec 4) : Statement (.bmiD4 disp) :=
  ⟨(congrArg opcodeLength (fieldOp_packF1 ..)).trans rfl, packF1_lt ..⟩

theorem bvsD4 (disp : BitVec 4) : Statement (.bvsD4 disp) :=
  ⟨(congrArg opcodeLength (fieldOp_packF1 ..)).trans rfl, packF1_lt ..⟩

theorem bvcD4 (disp : BitVec 4) : Statement (.bvcD4 disp) :=
  ⟨(congrArg opcodeLength (fieldOp_packF1 ..)).trans rfl, packF1_lt ..⟩

theorem bcsD4 (disp : BitVec 4) : Statement (.bcsD4 disp) :=
  ⟨(congrArg opcodeLength (fieldOp_packF1 ..)).trans rfl, packF1_lt ..⟩

theorem bccD4 (disp : BitVec 4) : Statement (.bccD4 disp) :=
  ⟨(congrArg opcodeLength (fieldOp_packF1 ..)).trans rfl, packF1_lt ..⟩

theorem beqD17 (disp : BitVec 17) : Statement (.beqD17 disp) :=
  ⟨(congrArg opcodeLength (fieldOp_packB17 ..)).trans rfl, packB17_lt ..⟩

theorem bneD17 (disp : BitVec 17) : Statement (.bneD17 disp) :=
  ⟨(congrArg opcodeLength (fieldOp_packB17 ..)).trans rfl, packB17_lt ..⟩

theorem bplD17 (disp : BitVec 17) : Statement (.bplD17 disp) :=
  ⟨(congrArg opcodeLength (fieldOp_packB17 ..)).trans rfl, packB17_lt ..⟩

theorem bmiD17 (disp : BitVec 17) : Statement (.bmiD17 disp) :=
  ⟨(congrArg opcodeLength (fieldOp_packB17 ..)).trans rfl, packB17_lt ..⟩

theorem bvsD17 (disp : BitVec 17) : Statement (.bvsD17 disp) :=
  ⟨(congrArg opcodeLength (fieldOp_packB17 ..)).trans rfl, packB17_lt ..⟩

theorem bvcD17 (disp : BitVec 17) : Statement (.bvcD17 disp) :=
  ⟨(congrArg opcodeLength (fieldOp_packB17 ..)).trans rfl, packB17_lt ..⟩

theorem bcsD17 (disp : BitVec 17) : Statement (.bcsD17 disp) :=
  ⟨(congrArg opcodeLength (fieldOp_packB17 ..)).trans rfl, packB17_lt ..⟩

theorem bccD17 (disp : BitVec 17) : Statement (.bccD17 disp) :=
  ⟨(congrArg opcodeLength (fieldOp_packB17 ..)).trans rfl, packB17_lt ..⟩

theorem braD4 (disp : BitVec 4) : Statement (.braD4 disp) :=
  ⟨(congrArg opcodeLength (fieldOp_packF1 ..)).trans rfl, packF1_lt ..⟩

theorem braD17 (disp : BitVec 17) : Statement (.braD17 disp) :=
  ⟨(congrArg opcodeLength (fieldOp_packB17 ..)).trans rfl, packB17_lt ..⟩

theorem php : Statement .php :=
  ⟨(congrArg opcodeLength (fieldOp_packM7 ..)).trans rfl, packM7_lt ..⟩

theorem plp : Statement .plp :=
  ⟨(congrArg opcodeLength (fieldOp_packM7 ..)).trans rfl, packM7_lt ..⟩

theorem psh (ra : Reg) : Statement (.psh ra) :=
  ⟨(congrArg opcodeLength (fieldOp_packR1 ..)).trans rfl, packR1_lt ..⟩

theorem pop (rt : Reg) : Statement (.pop rt) :=
  ⟨(congrArg opcodeLength (fieldOp_packR1 ..)).trans rfl, packR1_lt ..⟩

theorem sep (mask : BitVec 7) : Statement (.sep mask) :=
  ⟨(congrArg opcodeLength (fieldOp_packM7 ..)).trans rfl, packM7_lt ..⟩

theorem rep (mask : BitVec 7) : Statement (.rep mask) :=
  ⟨(congrArg opcodeLength (fieldOp_packM7 ..)).trans rfl, packM7_lt ..⟩

theorem mvnb : Statement .mvnb :=
  ⟨(congrArg opcodeLength (fieldOp_packF1 ..)).trans rfl, packF1_lt ..⟩

theorem mvpb : Statement .mvpb :=
  ⟨(congrArg opcodeLength (fieldOp_packF1 ..)).trans rfl, packF1_lt ..⟩

theorem stsb : Statement .stsb :=
  ⟨(congrArg opcodeLength (fieldOp_packF1 ..)).trans rfl, packF1_lt ..⟩

theorem cmpsb : Statement .cmpsb :=
  ⟨(congrArg opcodeLength (fieldOp_packF1 ..)).trans rfl, packF1_lt ..⟩

theorem mvn : Statement .mvn :=
  ⟨(congrArg opcodeLength (fieldOp_packF1 ..)).trans rfl, packF1_lt ..⟩

theorem mvp : Statement .mvp :=
  ⟨(congrArg opcodeLength (fieldOp_packF1 ..)).trans rfl, packF1_lt ..⟩

theorem sts : Statement .sts :=
  ⟨(congrArg opcodeLength (fieldOp_packF1 ..)).trans rfl, packF1_lt ..⟩

theorem cmps : Statement .cmps :=
  ⟨(congrArg opcodeLength (fieldOp_packF1 ..)).trans rfl, packF1_lt ..⟩

end Sys2Proof.Laws.EncodedLength
end

