-- ==== Sys2Proof/Laws/Start.lean ====
section
/-! SUPPORT. Placing bytes and programs in memory, giving registers values, and starting with a program (R251). -/

namespace Sys2Proof.Machine

/-! ### Placing bytes -/

/-- Placing a list of bytes places the first one first. -/
theorem State.placeBytes_cons (s : State) (a : Word) (b : Byte) (bs : List Byte) :
    s.placeBytes a (b :: bs) = (s.placeByte a b).placeBytes (a + 1#52) bs := rfl

/-- Placing a byte keeps the canonical form of memory. -/
theorem State.placeByte_wf (s : State) (a : Word) (b : Byte) (h : s.mem.wf) : (s.placeByte a b).mem.wf :=
  Memory.writeByte_wf _ _ _ a.isLt h

/-- A byte of memory after one byte is placed. -/
theorem State.placeByte_byteAt (s : State) (a q : Word) (b : Byte) (h : s.mem.wf) :
    (s.placeByte a b).byteAt q = if q = a then b else s.byteAt q := by
  simp only [State.byteAt, State.placeByte, Memory.readByte_writeByte _ _ _ _ h, BitVec.toNat_inj]

/-- Placing bytes changes memory and the notes of R64 alone. -/
theorem State.placeBytes_eq (s : State) (a : Word) (bs : List Byte) :
    ∃ m o, s.placeBytes a bs = { s with mem := m, overwritten := o } := by
  induction bs generalizing s a with
  | nil => exact ⟨s.mem, s.overwritten, rfl⟩
  | cons b bs ih => exact ih ..

/-- Placing bytes keeps the canonical form of memory. -/
theorem State.placeBytes_wf (s : State) (a : Word) (bs : List Byte) (h : s.mem.wf) : (s.placeBytes a bs).mem.wf := by
  induction bs generalizing s a with
  | nil => exact h
  | cons b bs ih => exact ih _ _ (s.placeByte_wf a b h)

/-- A byte outside those placed is as before. -/
theorem State.placeBytes_outside (s : State) (a q : Word) (bs : List Byte) (h : s.mem.wf) (hq : Outside a bs.length q) :
    (s.placeBytes a bs).byteAt q = s.byteAt q := by
  induction bs generalizing s a with
  | nil => rfl
  | cons b bs ih =>
    simp only [Outside, List.length_cons] at hq
    rw [State.placeBytes_cons, ih _ _ (s.placeByte_wf a b h) (by simp only [Outside]; bv_omega),
      State.placeByte_byteAt _ _ _ _ h, if_neg (by bv_omega)]

/-- Byte k of those placed stands at the first address plus k, modulo 2^52, where no more than 2^52 are placed (R52). -/
theorem State.placeBytes_inside (s : State) (a : Word) (bs : List Byte) (h : s.mem.wf) (hlen : bs.length ≤ 2 ^ 52)
    (k : Nat) (hk : k < bs.length) : (s.placeBytes a bs).byteAt (a + BitVec.ofNat 52 k) = bs[k] := by
  induction bs generalizing s a k with
  | nil => exact absurd hk (by simp)
  | cons b bs ih =>
    simp only [List.length_cons] at hlen hk
    rw [State.placeBytes_cons]
    cases k with
    | zero =>
      rw [State.placeBytes_outside _ _ _ _ (s.placeByte_wf a b h) (by simp only [Outside]; bv_omega),
        State.placeByte_byteAt _ _ _ _ h]
      simp
    | succ k =>
      have hadd : a + BitVec.ofNat 52 (k + 1) = a + 1#52 + BitVec.ofNat 52 k := by bv_omega
      rw [hadd, ih _ _ (s.placeByte_wf a b h) (by omega) k (by omega)]
      rfl

/-! ### Placing a program -/

/-- Placing a program changes memory and the notes of R64 alone. -/
theorem State.placeProgram_eq (s : State) (program : List (Word × List Byte)) :
    ∃ m o, s.placeProgram program = { s with mem := m, overwritten := o } := by
  induction program generalizing s with
  | nil => exact ⟨s.mem, s.overwritten, rfl⟩
  | cons p ps ih =>
    obtain ⟨m, o, h⟩ := s.placeBytes_eq p.1 p.2
    obtain ⟨m', o', h'⟩ := ih (s.placeBytes p.1 p.2)
    have hcons : s.placeProgram (p :: ps) = (s.placeBytes p.1 p.2).placeProgram ps := rfl
    exact ⟨m', o', by rw [hcons, h', h]⟩

/-- Placing a program keeps the canonical form of memory. -/
theorem State.placeProgram_wf (s : State) (program : List (Word × List Byte)) (h : s.mem.wf) :
    (s.placeProgram program).mem.wf := by
  induction program generalizing s with
  | nil => exact h
  | cons p ps ih => exact ih _ (s.placeBytes_wf p.1 p.2 h)

/-- A byte outside the program is as before. -/
theorem State.placeProgram_outside (s : State) (program : List (Word × List Byte)) (q : Word) (h : s.mem.wf)
    (hq : OutsideProgram program q) : (s.placeProgram program).byteAt q = s.byteAt q := by
  induction program generalizing s with
  | nil => rfl
  | cons p ps ih =>
    have hp : OutsideProgram ps q := fun x hx => hq x (List.mem_cons_of_mem _ hx)
    exact (ih _ (s.placeBytes_wf p.1 p.2 h) hp).trans (s.placeBytes_outside _ _ _ h (hq p (by simp)))

/-- The last segment of a program is placed over the ones before it. -/
theorem State.placeProgram_append (s : State) (program : List (Word × List Byte)) (base : Word) (bytes : List Byte) :
    s.placeProgram (program ++ [(base, bytes)]) = (s.placeProgram program).placeBytes base bytes := by
  simp [State.placeProgram]

/-! ### Registers the harness states -/

/-- Giving registers values changes the register file alone. -/
theorem State.giveRegs_eq (s : State) (given : List (Reg × Word)) : ∃ r, s.giveRegs given = { s with regs := r } := by
  induction given generalizing s with
  | nil => exact ⟨s.regs, rfl⟩
  | cons g gs ih =>
    obtain ⟨r, h⟩ := ih (s.setReg g.1 g.2)
    refine ⟨r, ?_⟩
    have : s.giveRegs (g :: gs) = (s.setReg g.1 g.2).giveRegs gs := rfl
    rw [this, h, State.setReg]
    split <;> rfl

/-- A register given no value is as before. -/
theorem State.giveRegs_reg_ne (s : State) (given : List (Reg × Word)) (r : Reg) (h : r ∉ given.map Prod.fst) :
    (s.giveRegs given).reg r = s.reg r := by
  induction given generalizing s with
  | nil => rfl
  | cons g gs ih =>
    simp only [List.map_cons, List.mem_cons, not_or] at h
    exact (ih _ h.2).trans (s.setReg_reg_ne _ _ _ h.1)

/-- A register other than R0 that is given one value holds it. -/
theorem State.giveRegs_reg (s : State) (given : List (Reg × Word)) (hn : (given.map Prod.fst).Nodup) (r : Reg) (v : Word)
    (hr : r ≠ 0#5) (hm : (r, v) ∈ given) : (s.giveRegs given).reg r = v := by
  induction given generalizing s with
  | nil => exact absurd hm (by simp)
  | cons g gs ih =>
    simp only [List.map_cons, List.nodup_cons] at hn
    rcases List.mem_cons.mp hm with rfl | hm
    · exact (State.giveRegs_reg_ne _ _ _ hn.1).trans (s.setReg_reg_same _ _ hr)
    · exact ih _ hn.2 hm

/-! ### The start -/

/-- All a start does (R251): memory is that of the placed program, the registers are those given, and nothing else is left open. -/
theorem State.start_eq (s : State) (program : List (Word × List Byte)) (entry : Word) (given : List (Reg × Word)) :
    s.start program entry given =
      { s with
        mem := (s.placeProgram program).mem, regs := (s.giveRegs given).regs, pc := entry, run := .running,
        flags := { s.flags with i := true, b := false }, inputs := [], overwritten := [] } := by
  obtain ⟨m, o, hp⟩ := s.placeProgram_eq program
  have hg : ∀ (gs : List (Reg × Word)) (u : State), (State.giveRegs { u with mem := m, overwritten := o } gs) =
      { u.giveRegs gs with mem := m, overwritten := o } := by
    intro gs
    induction gs with
    | nil => intro u; rfl
    | cons g gs ih =>
      intro u
      have : State.setReg { u with mem := m, overwritten := o } g.1 g.2 = { u.setReg g.1 g.2 with mem := m, overwritten := o } := by
        unfold State.setReg
        split <;> rfl
      exact (congrArg (State.giveRegs · gs) this).trans (ih _)
  obtain ⟨r, hr⟩ := s.giveRegs_eq given
  simp [State.start, hp, hg, hr, State.resetTo, State.setFlags]

/-- A byte after a start is that of the placed program. -/
theorem State.start_byteAt (s : State) (program : List (Word × List Byte)) (entry q : Word) (given : List (Reg × Word)) :
    (s.start program entry given).byteAt q = (s.placeProgram program).byteAt q := by
  simp [State.start_eq, State.byteAt]

/-- A register after a start is as the harness gives it. -/
theorem State.start_reg (s : State) (program : List (Word × List Byte)) (entry : Word) (given : List (Reg × Word)) (q : Reg) :
    (s.start program entry given).reg q = (s.giveRegs given).reg q := by
  simp [State.start_eq, State.reg]

/-- A start keeps the canonical form of memory. -/
theorem State.start_wf (s : State) (program : List (Word × List Byte)) (entry : Word) (given : List (Reg × Word))
    (h : s.mem.wf) : (s.start program entry given).mem.wf := by
  simpa [State.start_eq] using s.placeProgram_wf program h

end Sys2Proof.Machine
end

