-- ==== Sys2Proof/Tests/Slice0.lean ====
section
/-! SUPPORT. Tests: every constructor's decoding from a word written out of the spec, the check of WellFormed, one step of every instruction
from the vectors of 95_test_vectors.md (V-...), and for each statement with hypotheses a state that meets them. -/

namespace Sys2Proof.Tests

open Sys2Proof Sys2Proof.Machine

/-! ### Decoding -/

/-- The decoder reads these bytes as this instruction. -/
def reads (bytes : List Byte) (i : Instr) : Bool := (decode bytes).toOption == some i

/-- The decoder finds no instruction in these bytes. -/
def readsNone (bytes : List Byte) : Bool := (decode bytes).toOption == none

/-- V-ALU-1, 5, 9, 11. -/
theorem test_decode_add :
    reads [0x1040, 0x0018] (.addRR 1 2 3) ∧
    reads [0x0840, 0x1FF8] (.addRI9 1 1 (-1)) ∧
    reads [0x0901, 0x1F41, 0x0000] (.addRI23 4 5 1000) ∧
    reads [0x0902, 0x0001, 0x0000, 0x0800] (.addRI36 4 5 0x400000000) := by decide

/-- V-ALU-18, 20; opcodes 11o and 12o with Rt = R0 laid out by R84 and R85. -/
theorem test_decode_cmp :
    reads [0x1008, 0x0018] (.cmpRR 2 3) ∧
    reads [0x1008, 0x1028] (.cmpRI9 2 5) ∧
    reads [0x1009, 0x000F, 0x1000] (.cmpRI23 30 0x400001) ∧
    reads [0x080A, 0x001C, 0x0000, 0x1000] (.cmpRI36 17 0x800000003) := by decide

/-- V-ALU-13, 17; opcodes 11o and 12o laid out by R84 and R85. -/
theorem test_decode_sub :
    reads [0x1048, 0x0018] (.subRR 1 2 3) ∧
    reads [0x1048, 0x1028] (.subRI9 1 2 5) ∧
    reads [0x0C09, 0x1FF0, 0x0FFF] (.subRI23 16 1 0x3FFFFE) ∧
    reads [0x17CA, 0x1FE0, 0x1FFF, 0x0FFF] (.subRI36 31 2 0x7FFFFFFFC) := by decide

/-- V-ALU-24, 26; opcodes 31o and 32o with Rt = R0 laid out by R84 and R85. -/
theorem test_decode_bit :
    reads [0x1018, 0x0018] (.bitRR 2 3) ∧
    reads [0x1018, 0x1008] (.bitRI9 2 1) ∧
    reads [0x0819, 0x1552, 0x0AAA] (.bitRI23 9 0x2AAAAA) ∧
    reads [0x001A, 0x0AAA, 0x1555, 0x0AAA] (.bitRI36 8 0x555555555) := by decide

/-- V-ALU-21, 22; opcodes 31o and 32o laid out by R84 and R85. -/
theorem test_decode_and :
    reads [0x1058, 0x0018] (.andRR 1 2 3) ∧
    reads [0x1058, 0x1800] (.andRI9 1 2 (-256)) ∧
    reads [0x09D9, 0x0AAA, 0x1555] (.andRI23 7 9 0x555555) ∧
    reads [0x019A, 0x1552, 0x0AAA, 0x1555] (.andRI36 6 8 0xAAAAAAAAA) := by decide

/-- V-ALU-27, 28; the immediate forms laid out by R83 to R85. -/
theorem test_decode_or :
    reads [0x1060, 0x0018] (.orRR 1 2 3) ∧
    reads [0x0060, 0x0000] (.orRR 1 0 0) ∧
    reads [0x1AA0, 0x180A] (.orRI9 10 11 0x101) ∧
    reads [0x0B21, 0x000B, 0x0000] (.orRI23 12 13 1) ∧
    reads [0x1BA2, 0x0003, 0x0000, 0x1E00] (.orRI36 14 15 0xF00000000) := by decide

/-- V-ALU-29, 31; opcodes 51o and 52o laid out by R84 and R85. -/
theorem test_decode_eor :
    reads [0x1068, 0x0018] (.eorRR 1 2 3) ∧
    reads [0x1068, 0x1FF8] (.eorRI9 1 2 (-1)) ∧
    reads [0x1CA9, 0x0004, 0x1800] (.eorRI23 18 19 0x600000) ∧
    reads [0x0D2A, 0x0015, 0x0000, 0x0000] (.eorRI36 20 21 2) := by decide

/-- V-SH-4, 6, 12, 13, 17, 18, 23, 24. -/
theorem test_decode_shifts :
    reads [0x1046, 0x0018] (.aslRR 1 2 3) ∧
    reads [0x1046, 0x1198] (.aslSI6 1 2 51) ∧
    reads [0x104E, 0x0018] (.rolRR 1 2 3) ∧
    reads [0x104E, 0x1198] (.rolSI6 1 2 51) ∧
    reads [0x1056, 0x0018] (.lsrRR 1 2 3) ∧
    reads [0x1056, 0x1198] (.lsrSI6 1 2 51) ∧
    reads [0x105E, 0x0018] (.rorRR 1 2 3) ∧
    reads [0x105E, 0x1198] (.rorSI6 1 2 51) := by decide

/-- V-LD-1, 2, 4, 5, 13. -/
theorem test_decode_loads :
    reads [0x1070, 0x0018] (.ldRR 1 2 3) ∧
    reads [0x1070, 0x1040] (.ldRI9 1 2 8) ∧
    reads [0x1071, 0x1500, 0x0061] (.ldRI23 1 2 100000) ∧
    reads [0x0072, 0x1FE0, 0x1FFF, 0x1FFF] (.ldRI36 1 0 0xFFFFFFFFC) ∧
    reads [0x1074, 0x1FF8, 0x1FFF, 0x1FFF] (.ldbRI36 1 2 (-1)) := by decide

/-- V-ST-1, 2, 5; opcodes 71o and 72o laid out by R84 and R85. -/
theorem test_decode_stores :
    reads [0x1078, 0x0018] (.stRR 1 2 3) ∧
    reads [0x1078, 0x1040] (.stRI9 1 2 8) ∧
    reads [0x1DB9, 0x1FE5, 0x1FFF] (.stRI23 22 23 0x7FFFFC) ∧
    reads [0x0E3A, 0x1C4E, 0x1159, 0x0246] (.stRI36 24 25 0x123456789) ∧
    reads [0x107C, 0x0010, 0x0000, 0x0000] (.stbRI36 1 2 2) := by decide

/-- V-FLOW-1, 3, 4, 6, 7. -/
theorem test_decode_jumps :
    reads [0x0004, 0x0040, 0x0000, 0x0000] (.jmpAbs46 0x2000) ∧
    reads [0x1FC4, 0x1FFF, 0x1FFF, 0x1FFF] (.jmpAbs46 0x3FFFFFFFFFFF) ∧
    reads [0x000C, 0x0040, 0x0000, 0x0000] (.jsrAbs46 0x2000) ∧
    reads [0x0164] (.jmpReg 5) ∧
    reads [0x016C] (.jsrReg 5) := by decide

/-- V-FLOW-9 to 11, V-SYS-6 to 8. -/
theorem test_decode_group_24o :
    reads [0x0014] .rts ∧
    reads [0x0054] .rti ∧
    reads [0x0094] .pfi ∧
    reads [0x0114] .wai ∧
    reads [0x0194] .stp ∧
    reads [0x01D4] .nop := by decide

/-- V-SYS-2 to 5. -/
theorem test_decode_group_34o :
    reads [0x001C] .rst ∧
    reads [0x005C] .nmi ∧
    reads [0x009C] .irq ∧
    reads [0x0ADC] (.brk 5) := by decide

/-- V-FLOW-12 to 19, 28. -/
theorem test_decode_branches_d4 :
    reads [0x0605] (.beqD4 3) ∧
    reads [0x0645] (.bneD4 3) ∧
    reads [0x0685] (.bplD4 3) ∧
    reads [0x06C5] (.bmiD4 3) ∧
    reads [0x0705] (.bvsD4 3) ∧
    reads [0x0745] (.bvcD4 3) ∧
    reads [0x0785] (.bcsD4 3) ∧
    reads [0x07C5] (.bccD4 3) ∧
    reads [0x0E15] (.braD4 7) := by decide

/-- V-FLOW-25, 26, 29, 30 and the list under them. -/
theorem test_decode_branches_d17 :
    reads [0x100D, 0x003E] (.beqD17 1000) ∧
    reads [0x104D, 0x003E] (.bneD17 1000) ∧
    reads [0x108D, 0x003E] (.bplD17 1000) ∧
    reads [0x10CD, 0x003E] (.bmiD17 1000) ∧
    reads [0x110D, 0x003E] (.bvsD17 1000) ∧
    reads [0x114D, 0x003E] (.bvcD17 1000) ∧
    reads [0x118D, 0x003E] (.bcsD17 1000) ∧
    reads [0x11CD, 0x003E] (.bccD17 1000) ∧
    reads [0x09CD, 0x1FED] (.bccD17 (-300)) ∧
    reads [0x001D, 0x1000] (.braD17 (-65536)) ∧
    reads [0x1E1D, 0x0FFF] (.braD17 65535) := by decide

/-- V-STK-1, 3, 5, 7, 9, 12. -/
theorem test_decode_stack :
    reads [0x003D] .php ∧
    reads [0x0035] .plp ∧
    reads [0x017E] (.psh 5) ∧
    reads [0x07FE] (.psh 31) ∧
    reads [0x0176] (.pop 5) ∧
    reads [0x07F6] (.pop 31) := by decide

/-- V-SYS-9, 12, 15. -/
theorem test_decode_sep_rep :
    reads [0x0426] (.sep 0x10) ∧
    reads [0x1FE6] (.sep 0x7F) ∧
    reads [0x042E] (.rep 0x10) := by decide

/-- V-STR-1, 4, 5, 6, 9 to 12. -/
theorem test_decode_strings :
    reads [0x0125] .mvn ∧
    reads [0x0165] .mvp ∧
    reads [0x01A5] .sts ∧
    reads [0x01E5] .cmps ∧
    reads [0x0025] .mvnb ∧
    reads [0x0065] .mvpb ∧
    reads [0x00A5] .stsb ∧
    reads [0x00E5] .cmpsb := by decide

/-- The target and the other sources of R100: the same words with Rt = R0 are CMP and BIT. -/
theorem test_decode_rt_zero : reads (encode (.subRR 0 2 3)) (.cmpRR 2 3) ∧ reads (encode (.andRI36 0 2 7)) (.bitRI36 2 7) := by decide

/-- Unused fields set to ones (R102): RR, SI6, R1, F1, Z1. -/
theorem test_decode_unused_bits :
    reads [0x1040, 0x0F18] (.addRR 1 2 3) ∧ reads [0x1046, 0x1FA0] (.aslSI6 1 2 52) ∧ reads [0x197E] (.psh 5) ∧
    reads [0x1E14] .rts ∧ reads [0x1FFD] .php := by decide

/-- V-SYS-19, V-SYS-20, V-FLOW-32. -/
theorem test_unassigned :
    readsNone [0x0003, 0, 0, 0] ∧ readsNone [0x0007, 0, 0, 0] ∧ readsNone [0x0010, 0, 0, 0] ∧ readsNone [0x0011, 0, 0, 0] ∧
    readsNone [0x0012, 0, 0, 0] ∧ readsNone [0x002D, 0, 0, 0] ∧ readsNone [0x003F, 0, 0, 0] ∧ readsNone [0x00D4] ∧
    readsNone [0x0154] ∧ readsNone [0x011C] ∧ readsNone [0x01DC] ∧ readsNone [0x0055] := by decide

/-- Too few bytes for the length that the opcode gives. -/
theorem test_truncated : readsNone [] ∧ readsNone [0x1040] ∧ readsNone [0x0902, 0x0001, 0x0000] := by decide

/-! ### WellFormed (R100) -/

/-- SUB and AND with the target R0 have no encoding of their own: each of the eight checks refuses such a term. -/
theorem test_illFormed :
    (Instr.subRR 0 1 2).wellFormed = false ∧ (Instr.subRI9 0 1 2).wellFormed = false ∧ (Instr.subRI23 0 1 2).wellFormed = false ∧
    (Instr.subRI36 0 1 2).wellFormed = false ∧ (Instr.andRR 0 1 2).wellFormed = false ∧ (Instr.andRI9 0 1 2).wellFormed = false ∧
    (Instr.andRI23 0 1 2).wellFormed = false ∧ (Instr.andRI36 0 1 2).wellFormed = false := by decide

theorem test_wellFormed : (Instr.subRR 31 0 0).wellFormed = true ∧ (Instr.andRI9 1 0 0).wellFormed = true ∧ (Instr.addRR 0 0 0).wellFormed = true := by
  decide

/-! ### One step -/

/-- pc = 0x1000, running, no input; these registers, the flags of this image of SR (c v n z i u b d = 1 2 4 8 16 32 64 128), these words. -/
def start (rs : List (Reg × Word)) (sr : Word) (ws : List (Word × Word)) : State :=
  let s := rs.foldl (fun s r => s.setReg r.1 r.2) { State.reset with pc := 0x1000, flags := flagsOf sr }
  { ws.foldl (fun s w => s.putWord w.1 w.2) s with overwritten := [] }

/-- The outcome is a next state that passes a check. -/
def gives (o : Result) (p : State → Bool) : Bool :=
  match o with
  | .next t => p t
  | .fault _ => false
  | .refused _ => false

/-- The outcome is this refusal. -/
def refuses (o : Result) (r : Refusal) : Bool :=
  match o with
  | .next _ => false
  | .fault _ => false
  | .refused q => q == r

/-- Register r holds v, SR's image is sr, and pc is this. -/
def leaves (t : State) (r : Reg) (v sr pc : Word) : Bool := t.reg r == v && t.flags == flagsOf sr && t.pc == pc

/-- V-ALU-4. -/
theorem test_addRR : gives (exec (.addRR 1 2 3) (start [(2, 0x8000000000000), (3, 0x8000000000000)] 0 []))
    (fun t => leaves t 1 0 0xB 0x1002) := by decide
/-- V-ALU-6 and V-ALU-8: the write to R0 is discarded, the flags are the sum's; the most negative Imm9. -/
theorem test_addRI9 : gives (exec (.addRI9 1 0 (-256)) (start [] 0 [])) (fun t => leaves t 1 0xFFFFFFFFFFF00 4 0x1002) := by decide
theorem test_add_to_r0 : gives (exec (.addRR 0 2 3) (start [(2, 5), (3, 7)] 0xF [])) (fun t => leaves t 0 0 0 0x1002) := by decide
/-- V-ALU-10. -/
theorem test_addRI23 : gives (exec (.addRI23 4 5 (-1000)) (start [(5, 1)] 0 [])) (fun t => leaves t 4 0xFFFFFFFFFFC19 4 0x1003) := by decide
/-- V-ALU-12. -/
theorem test_addRI36 : gives (exec (.addRI36 4 5 0x800000000) (start [] 0 [])) (fun t => leaves t 4 0xFFFF800000000 4 0x1004) := by decide
/-- V-ALU-13 and V-ALU-16: the sense of c, and overflow. -/
theorem test_subRR : gives (exec (.subRR 1 2 3) (start [(2, 5), (3, 7)] 0xB [])) (fun t => leaves t 1 0xFFFFFFFFFFFFE 4 0x1002) := by decide
theorem test_subRR_overflow : gives (exec (.subRR 1 2 3) (start [(2, 0x8000000000000), (3, 1)] 0 []))
    (fun t => leaves t 1 0x7FFFFFFFFFFFF 3 0x1002) := by decide
/-- V-ALU-17. -/
theorem test_subRI9 : gives (exec (.subRI9 1 2 5) (start [(2, 5)] 0 [])) (fun t => leaves t 1 0 9 0x1002) := by decide
/-- By R122: 1 - (-1) = 2 with a borrow; the target is the source. -/
theorem test_subRI23 : gives (exec (.subRI23 2 2 (-1)) (start [(2, 1)] 0 [])) (fun t => leaves t 2 2 0 0x1003) := by decide
theorem test_subRI36 : gives (exec (.subRI36 2 2 1) (start [(2, 0)] 0 [])) (fun t => leaves t 2 0xFFFFFFFFFFFFF 4 0x1004) := by decide
/-- V-ALU-18 and V-ALU-19: v stays 1, v stays 0. -/
theorem test_cmpRR : gives (exec (.cmpRR 2 3) (start [(2, 5), (3, 7)] 2 [])) (fun t => leaves t 2 5 6 0x1002) := by decide
theorem test_cmpRR_overflow : gives (exec (.cmpRR 2 3) (start [(2, 0x8000000000000), (3, 1)] 0 []))
    (fun t => leaves t 2 0x8000000000000 1 0x1002) := by decide
/-- V-ALU-20, and the same comparison in the longer forms (R120, R123). -/
theorem test_cmpRI9 : gives (exec (.cmpRI9 2 5) (start [(2, 5)] 0 [])) (fun t => leaves t 2 5 9 0x1002) := by decide
theorem test_cmpRI23 : gives (exec (.cmpRI23 2 5) (start [(2, 5)] 0 [])) (fun t => leaves t 2 5 9 0x1003) := by decide
theorem test_cmpRI36 : gives (exec (.cmpRI36 2 5) (start [(2, 5)] 0 [])) (fun t => leaves t 2 5 9 0x1004) := by decide
/-- V-ALU-21 to V-ALU-23. -/
theorem test_andRR : gives (exec (.andRR 1 2 3) (start [(2, 0xFF0F), (3, 0xFF0)] 3 [])) (fun t => leaves t 1 0xF00 3 0x1002) := by decide
theorem test_andRI9 : gives (exec (.andRI9 1 2 (-256)) (start [(2, 0x12345)] 0 [])) (fun t => leaves t 1 0x12300 0 0x1002) := by decide
theorem test_andRI23 : gives (exec (.andRI23 1 2 0x0F) (start [(2, 0xF0)] 3 [])) (fun t => leaves t 1 0 0xB 0x1003) := by decide
theorem test_andRI36 : gives (exec (.andRI36 1 2 (-1)) (start [(2, 0x8000000000000)] 0 []))
    (fun t => leaves t 1 0x8000000000000 4 0x1004) := by decide
/-- V-ALU-24 to V-ALU-26. -/
theorem test_bitRR : gives (exec (.bitRR 2 3) (start [(2, 0xC000000000000), (3, 0x4000000000000)] 1 []))
    (fun t => leaves t 2 0xC000000000000 3 0x1002) := by decide
theorem test_bitRI9 : gives (exec (.bitRI9 2 1) (start [(2, 2)] 2 [])) (fun t => leaves t 2 2 8 0x1002) := by decide
theorem test_bitRI23 : gives (exec (.bitRI23 2 (-1)) (start [(2, 0x8000000000000)] 2 []))
    (fun t => leaves t 2 0x8000000000000 4 0x1003) := by decide
theorem test_bitRI36 : gives (exec (.bitRI36 2 0xF00000000) (start [(2, 0xFFFFFFFFFFFFF)] 0 []))
    (fun t => leaves t 2 0xFFFFFFFFFFFFF 6 0x1004) := by decide
/-- V-ALU-27, V-ALU-28. -/
theorem test_orRR : gives (exec (.orRR 1 2 3) (start [(2, 0x8000000000000), (3, 1)] 3 [])) (fun t => leaves t 1 0x8000000000001 7 0x1002) := by decide
theorem test_orRI9 : gives (exec (.orRI9 1 0 0) (start [(1, 5)] 0 [])) (fun t => leaves t 1 0 8 0x1002) := by decide
theorem test_orRI23 : gives (exec (.orRI23 1 2 0xF0) (start [(2, 0xF)] 0 [])) (fun t => leaves t 1 0xFF 0 0x1003) := by decide
theorem test_orRI36 : gives (exec (.orRI36 1 2 (-2)) (start [(2, 1)] 0 [])) (fun t => leaves t 1 0xFFFFFFFFFFFFF 4 0x1004) := by decide
/-- V-ALU-29 to V-ALU-31. -/
theorem test_eorRR : gives (exec (.eorRR 1 1 1) (start [(1, 0x1234)] 0 [])) (fun t => leaves t 1 0 8 0x1002) := by decide
theorem test_eorRI9 : gives (exec (.eorRI9 1 2 (-1)) (start [] 3 [])) (fun t => leaves t 1 0xFFFFFFFFFFFFF 7 0x1002) := by decide
theorem test_eorRI23 : gives (exec (.eorRI23 1 2 0x0F) (start [(2, 0xFF)] 0 [])) (fun t => leaves t 1 0xF0 0 0x1003) := by decide
theorem test_eorRI36 : gives (exec (.eorRI36 1 2 0x7FFFFFFFF) (start [(2, 0x7FFFFFFFF)] 0 [])) (fun t => leaves t 1 0 8 0x1004) := by decide

/-- V-SH-2, V-SH-4, V-SH-6 (A = 0x9000000000003). -/
theorem test_aslSI6 : gives (exec (.aslSI6 1 2 51) (start [(2, 0x9000000000003)] 0 [])) (fun t => leaves t 1 0x8000000000000 5 0x1002) := by decide
theorem test_aslSI6_zero : gives (exec (.aslSI6 1 2 0) (start [(2, 0x9000000000003)] 3 [])) (fun t => leaves t 1 0x9000000000003 7 0x1002) := by decide
theorem test_aslRR : gives (exec (.aslRR 1 2 3) (start [(2, 0x9000000000003), (3, 8)] 1 [])) (fun t => leaves t 1 0x300 0 0x1002) := by decide
/-- V-SH-10, V-SH-12, V-SH-13. -/
theorem test_rolSI6 : gives (exec (.rolSI6 1 2 51) (start [(2, 0x9000000000003)] 0 [])) (fun t => leaves t 1 0xC800000000001 5 0x1002) := by decide
theorem test_rolSI6_zero : gives (exec (.rolSI6 1 2 0) (start [(2, 0x9000000000003)] 1 [])) (fun t => leaves t 1 0x9000000000003 5 0x1002) := by decide
theorem test_rolRR : gives (exec (.rolRR 1 2 3) (start [(2, 0x9000000000003), (3, 8)] 1 [])) (fun t => leaves t 1 0x390 0 0x1002) := by decide
/-- V-SH-16, V-SH-18. -/
theorem test_lsrSI6 : gives (exec (.lsrSI6 1 2 1) (start [(2, 0x9000000000003)] 0 [])) (fun t => leaves t 1 0x4800000000001 1 0x1002) := by decide
theorem test_lsrRR : gives (exec (.lsrRR 1 2 3) (start [(2, 0x9000000000003), (3, 8)] 1 [])) (fun t => leaves t 1 0x90000000000 0 0x1002) := by decide
/-- V-SH-22, V-SH-24. -/
theorem test_rorSI6 : gives (exec (.rorSI6 1 2 1) (start [(2, 0x9000000000003)] 0 [])) (fun t => leaves t 1 0xC800000000001 5 0x1002) := by decide
theorem test_rorRR : gives (exec (.rorRR 1 2 3) (start [(2, 0x9000000000003), (3, 8)] 1 [])) (fun t => leaves t 1 0x390000000000 0 0x1002) := by decide

/-- V-LD-2. -/
theorem test_ldRR : gives (exec (.ldRR 1 2 3) (start [(2, 0x2000), (3, 0x10)] 1 [(0x2010, 0x8000000000000)]))
    (fun t => leaves t 1 0x8000000000000 5 0x1002) := by decide
/-- V-LD-3 and V-LD-9: a negative displacement; the address from the old register. -/
theorem test_ldRI9 : gives (exec (.ldRI9 1 31 (-4)) (start [(31, 0x3000), (1, 7)] 0 [])) (fun t => leaves t 1 0 8 0x1002) := by decide
theorem test_ldRI9_same_register : gives (exec (.ldRI9 2 2 0) (start [(2, 0x2000)] 0 [(0x2000, 5)])) (fun t => leaves t 2 5 0 0x1002) := by decide
/-- V-LD-5. -/
theorem test_ldRI23 : gives (exec (.ldRI23 1 2 100000) (start [(2, 0x20)] 0 [(100032, 77)])) (fun t => leaves t 1 77 0 0x1003) := by decide
/-- V-LD-4, and log 11: a misaligned word is read byte by byte. -/
theorem test_ldRI36 : gives (exec (.ldRI36 1 0 0xFFFFFFFFC) (start [] 0 [(0xFFFFFFFFFFFFC, 0x4000)])) (fun t => leaves t 1 0x4000 0 0x1004) := by decide
theorem test_ldRI36_misaligned : gives (exec (.ldRI36 1 0 1) (start [] 0 [(0, 0x123456789ABCD)]))
    (fun t => leaves t 1 0x91A2B3C4D 0 0x1004) := by decide
/-- V-LD-11, V-LD-13. -/
theorem test_ldbRI36 : gives (exec (.ldbRI36 1 2 3) (start [(2, 0x2000)] 0 [(0x2000, 0xFFF8000000000)]))
    (fun t => leaves t 1 0xFFFFFFFFFFFFF 4 0x1004) := by decide
theorem test_ldbRI36_zero : gives (exec (.ldbRI36 1 2 (-1)) (start [(2, 0x2001)] 0 [])) (fun t => leaves t 1 0 8 0x1004) := by decide
/-- V-ST-2. -/
theorem test_stRR : gives (exec (.stRR 1 2 3) (start [(1, 0xFFFFFFFFFFFFF), (2, 0x2000), (3, 4)] 0 []))
    (fun t => leaves t 1 0xFFFFFFFFFFFFF 0 0x1002 && t.wordAt 0x2004 == 0xFFFFFFFFFFFFF && t.byteAt 0x2003 == 0 && t.byteAt 0x2008 == 0) := by decide
/-- V-ST-1 and V-ST-3: the bytes, lowest address first; R0 stores 0. -/
theorem test_stRI9 : gives (exec (.stRI9 1 2 8) (start [(1, 0x123456789ABCD), (2, 0x2000)] 0xC []))
    (fun t => leaves t 2 0x2000 0xC 0x1002 && t.byteAt 0x2008 == 0x0BCD && t.byteAt 0x2009 == 0x1C4D && t.byteAt 0x200A == 0x1159 &&
      t.byteAt 0x200B == 0x0246) := by decide
theorem test_stRI9_r0 : gives (exec (.stRI9 0 2 0) (start [(2, 0x2000)] 0 [(0x2000, 55)])) (fun t => t.wordAt 0x2000 == 0 && t.mem == []) := by decide
/-- By R150 and R153: the displacements -4 and 0x400000000. -/
theorem test_stRI23 : gives (exec (.stRI23 1 2 (-4)) (start [(1, 9), (2, 0x2000)] 0 [])) (fun t => t.wordAt 0x1FFC == 9 && t.pc == 0x1003) := by decide
theorem test_stRI36 : gives (exec (.stRI36 1 2 0x400000000) (start [(1, 9), (2, 0x2000)] 0 []))
    (fun t => t.wordAt 0x400002000 == 9 && t.pc == 0x1004) := by decide
/-- V-ST-5. -/
theorem test_stbRI36 : gives (exec (.stbRI36 1 2 2) (start [(1, 0x123456789ABCD), (2, 0x2000)] 0 []))
    (fun t => t.byteAt 0x2002 == 0x0BCD && t.byteAt 0x2001 == 0 && t.byteAt 0x2003 == 0 && t.pc == 0x1004) := by decide

/-- V-STK-1, V-STK-3, V-STK-4. -/
theorem test_php : gives (exec .php (start [(31, 0x3000)] 0x15 [])) (fun t => leaves t 31 0x2FFC 0x15 0x1001 && t.wordAt 0x2FFC == 0x15) := by decide
theorem test_plp : gives (exec .plp (start [(31, 0x2FFC)] 0 [(0x2FFC, 0xA5)])) (fun t => leaves t 31 0x3000 0xA5 0x1001) := by decide
theorem test_plp_ones : gives (exec .plp (start [(31, 0x2FFC)] 0 [(0x2FFC, 0xFFFFFFFFFFFFF)])) (fun t => leaves t 31 0x3000 0xFF 0x1001) := by decide
/-- V-STK-7, V-STK-8. -/
theorem test_psh_sp : gives (exec (.psh 31) (start [(31, 0x3000)] 8 [])) (fun t => leaves t 31 0x2FFC 8 0x1001 && t.wordAt 0x2FFC == 0x2FFC) := by decide
theorem test_psh_wraps : gives (exec (.psh 5) (start [(5, 7)] 0 [])) (fun t => leaves t 31 0xFFFFFFFFFFFFC 0 0x1001 && t.wordAt 0xFFFFFFFFFFFFC == 7) := by decide
/-- V-STK-9, V-STK-12. -/
theorem test_pop : gives (exec (.pop 5) (start [(31, 0x2FFC)] 0 [(0x2FFC, 0x8000000000000)]))
    (fun t => leaves t 5 0x8000000000000 4 0x1001 && t.reg 31 == 0x3000) := by decide
theorem test_pop_sp : gives (exec (.pop 31) (start [(31, 0x2FFC)] 0 [(0x2FFC, 0x5000)])) (fun t => leaves t 31 0x5004 0 0x1001) := by decide

/-- V-FLOW-2, V-FLOW-4. -/
theorem test_jmpAbs46 : gives (exec (.jmpAbs46 0x2000) { start [] 0 [] with pc := 0x1400000001000 }) (fun t => t.pc == 0x1400000002000) := by decide
theorem test_jmpReg : gives (exec (.jmpReg 5) (start [(5, 0xFFFFFFFFFFFF0)] 0 [])) (fun t => t.pc == 0xFFFFFFFFFFFF0) := by decide
/-- V-FLOW-6 to V-FLOW-8. -/
theorem test_jsrAbs46 : gives (exec (.jsrAbs46 0x2000) (start [(31, 0x3000)] 0 []))
    (fun t => leaves t 31 0x2FFC 0 0x2000 && t.wordAt 0x2FFC == 0x1004) := by decide
theorem test_jsrReg : gives (exec (.jsrReg 5) (start [(31, 0x3000), (5, 0x2345)] 0 []))
    (fun t => leaves t 31 0x2FFC 0 0x2345 && t.wordAt 0x2FFC == 0x1001) := by decide
theorem test_jsrReg_sp : gives (exec (.jsrReg 31) (start [(31, 0x3000)] 0 [])) (fun t => leaves t 31 0x2FFC 0 0x2FFC) := by decide
/-- V-FLOW-9 to V-FLOW-11. -/
theorem test_rts : gives (exec .rts (start [(31, 0x2FFC)] 0 [(0x2FFC, 0x1004)])) (fun t => leaves t 31 0x3000 0 0x1004) := by decide
theorem test_rti : gives (exec .rti (start [(31, 0x2FF8)] 0x10 [(0x2FF8, 0x49), (0x2FFC, 0x1234)])) (fun t => leaves t 31 0x3000 0x49 0x1234) := by decide
theorem test_nop : gives (exec .nop (start [] 1 [])) (fun t => leaves t 1 0 1 0x1001) := by decide
/-- V-FLOW-12 to V-FLOW-19: taken. -/
theorem test_branches_taken :
    gives (exec (.beqD4 3) (start [] 8 [])) (fun t => t.pc == 0x1004) ∧ gives (exec (.bneD4 3) (start [] 7 [])) (fun t => t.pc == 0x1004) ∧
    gives (exec (.bplD4 3) (start [] 0xB [])) (fun t => t.pc == 0x1004) ∧ gives (exec (.bmiD4 3) (start [] 4 [])) (fun t => t.pc == 0x1004) ∧
    gives (exec (.bvsD4 3) (start [] 2 [])) (fun t => t.pc == 0x1004) ∧ gives (exec (.bvcD4 3) (start [] 0xD [])) (fun t => t.pc == 0x1004) ∧
    gives (exec (.bcsD4 3) (start [] 1 [])) (fun t => t.pc == 0x1004) ∧ gives (exec (.bccD4 3) (start [] 0xE [])) (fun t => t.pc == 0x1004) := by decide
/-- V-FLOW-12 to V-FLOW-19: not taken. -/
theorem test_branches_not_taken :
    gives (exec (.beqD4 3) (start [] 7 [])) (fun t => t.pc == 0x1001) ∧ gives (exec (.bneD4 3) (start [] 8 [])) (fun t => t.pc == 0x1001) ∧
    gives (exec (.bplD4 3) (start [] 4 [])) (fun t => t.pc == 0x1001) ∧ gives (exec (.bmiD4 3) (start [] 0xB [])) (fun t => t.pc == 0x1001) ∧
    gives (exec (.bvsD4 3) (start [] 0xD [])) (fun t => t.pc == 0x1001) ∧ gives (exec (.bvcD4 3) (start [] 2 [])) (fun t => t.pc == 0x1001) ∧
    gives (exec (.bcsD4 3) (start [] 0xE [])) (fun t => t.pc == 0x1001) ∧ gives (exec (.bccD4 3) (start [] 1 [])) (fun t => t.pc == 0x1001) := by decide
/-- V-FLOW-25, V-FLOW-26 and the conditions of R177 in the two-byte form: taken. -/
theorem test_long_branches_taken :
    gives (exec (.beqD17 1000) (start [] 8 [])) (fun t => t.pc == 0x13EA) ∧ gives (exec (.bneD17 1000) (start [] 7 [])) (fun t => t.pc == 0x13EA) ∧
    gives (exec (.bplD17 1000) (start [] 0xB [])) (fun t => t.pc == 0x13EA) ∧ gives (exec (.bmiD17 1000) (start [] 4 [])) (fun t => t.pc == 0x13EA) ∧
    gives (exec (.bvsD17 1000) (start [] 2 [])) (fun t => t.pc == 0x13EA) ∧ gives (exec (.bvcD17 1000) (start [] 0xD [])) (fun t => t.pc == 0x13EA) ∧
    gives (exec (.bcsD17 1000) (start [] 1 [])) (fun t => t.pc == 0x13EA) ∧ gives (exec (.bccD17 (-300)) (start [] 0xE [])) (fun t => t.pc == 0x0ED6) := by
  decide
/-- The same, not taken. -/
theorem test_long_branches_not_taken :
    gives (exec (.beqD17 1000) (start [] 7 [])) (fun t => t.pc == 0x1002) ∧ gives (exec (.bneD17 1000) (start [] 8 [])) (fun t => t.pc == 0x1002) ∧
    gives (exec (.bplD17 1000) (start [] 4 [])) (fun t => t.pc == 0x1002) ∧ gives (exec (.bmiD17 1000) (start [] 0xB [])) (fun t => t.pc == 0x1002) ∧
    gives (exec (.bvsD17 1000) (start [] 0xD [])) (fun t => t.pc == 0x1002) ∧ gives (exec (.bvcD17 1000) (start [] 2 [])) (fun t => t.pc == 0x1002) ∧
    gives (exec (.bcsD17 1000) (start [] 0xE [])) (fun t => t.pc == 0x1002) ∧ gives (exec (.bccD17 1000) (start [] 1 [])) (fun t => t.pc == 0x1002) := by decide
/-- V-FLOW-27 and V-FLOW-31, V-FLOW-29 and V-FLOW-30. -/
theorem test_braD4 : gives (exec (.braD4 (-1)) (start [] 0 [])) (fun t => t.pc == 0x1000) ∧
    gives (exec (.braD4 7) { start [] 0 [] with pc := 0xFFFFFFFFFFFFF }) (fun t => t.pc == 7) := by decide
theorem test_braD17 : gives (exec (.braD17 (-65536)) { start [] 0 [] with pc := 0x20000 }) (fun t => t.pc == 0x10002) ∧
    gives (exec (.braD17 65535) (start [] 0 [])) (fun t => t.pc == 0x11001) := by decide

/-- The state before the trap vectors V-SYS-1 to V-SYS-5. -/
def vectored (sr : Word) : State := start [(31, 0x3000)] sr [(0xFFFFFFFFFFFFC, 0x4000), (0xFFFFFFFFFFFF8, 0x5000), (0xFFFFFFFFFFFF4, 0x6000)]

/-- The trap has pushed the return address and this image at 0x2FFC and 0x2FF8. -/
def pushedTrap (t : State) (ret image : Word) : Bool := t.wordAt 0x2FFC == ret && t.wordAt 0x2FF8 == image && t.reg 31 == 0x2FF8

/-- V-SYS-1 to V-SYS-5. -/
theorem test_brk : gives (exec (.brk 0) (vectored 9)) (fun t => leaves t 31 0x2FF8 0x59 0x4000 && pushedTrap t 0x1001 0x49) := by decide
theorem test_brk_masked : gives (exec (.brk 5) (vectored 0x10)) (fun t => leaves t 31 0x2FF8 0x50 0x4000 && pushedTrap t 0x1001 0x50) := by decide
theorem test_rst : gives (exec .rst (vectored 9)) (fun t => leaves t 31 0x2FF8 0x19 0x5000 && pushedTrap t 0x1001 9) := by decide
theorem test_nmi : gives (exec .nmi (vectored 9)) (fun t => leaves t 31 0x2FF8 0x19 0x6000 && pushedTrap t 0x1001 9) := by decide
theorem test_irq : gives (exec .irq (vectored 9)) (fun t => leaves t 31 0x2FF8 0x19 0x4000 && pushedTrap t 0x1001 9) := by decide
/-- V-SYS-6 to V-SYS-8. -/
theorem test_pfi : gives (exec .pfi (start [] 2 [])) (fun t => leaves t 1 0 2 0x1001) := by decide
theorem test_wai : gives (exec .wai (start [] 0 [])) (fun t => t.pc == 0x1001 && t.run == .waiting) := by decide
theorem test_stp : gives (exec .stp (start [] 0 [])) (fun t => t.pc == 0x1001 && t.run == .stopped) := by decide
/-- V-SYS-9 to V-SYS-14. -/
theorem test_sep : gives (exec (.sep 0x7F) (start [] 0 [])) (fun t => leaves t 1 0 0x3F 0x1001) ∧
    gives (exec (.sep 0x10) (start [] 0 [])) (fun t => leaves t 1 0 0x10 0x1001) := by decide
theorem test_sep_nothing : gives (exec (.sep 0x40) (start [] 0 [])) (fun t => leaves t 1 0 0 0x1001) ∧
    gives (exec (.sep 0) (start [] 1 [])) (fun t => leaves t 1 0 1 0x1001) := by decide
/-- V-SYS-15, V-SYS-17, V-SYS-18. -/
theorem test_rep : gives (exec (.rep 0x7F) (start [] 0xFF [])) (fun t => leaves t 1 0 0xC0 0x1001) ∧
    gives (exec (.rep 0x10) (start [] 0xFF [])) (fun t => leaves t 1 0 0xEF 0x1001) := by decide
theorem test_rep_c : gives (exec (.rep 0x01) (start [] 9 [])) (fun t => leaves t 1 0 8 0x1001) := by decide

/-- Count, X and Y. -/
def strings (t : State) (a x y : Word) : Bool := t.reg 1 == a && t.reg 2 == x && t.reg 3 == y

/-- V-STR-1 (its last execution), V-STR-2. -/
theorem test_mvn : gives (exec .mvn (start [(1, 1), (2, 0x2008), (3, 0x3008)] 9 [(0x2008, 0xCCC)]))
    (fun t => strings t 0 0x200C 0x300C && leaves t 1 0 9 0x1001 && t.wordAt 0x3008 == 0xCCC) := by decide
theorem test_mvn_zero_count : gives (exec .mvn (start [(1, 0), (2, 0x2000), (3, 0x3000)] 0 [(0x2000, 5)]))
    (fun t => strings t 0xFFFFFFFFFFFFF 0x2004 0x3004 && t.pc == 0x1000 && t.wordAt 0x3000 == 5) := by decide
/-- V-STR-4 (its first execution). -/
theorem test_mvp : gives (exec .mvp (start [(1, 2), (2, 0x2004), (3, 0x3004)] 0 [(0x2004, 0xBBB)]))
    (fun t => strings t 1 0x2000 0x3000 && t.pc == 0x1000 && t.wordAt 0x3004 == 0xBBB) := by decide
/-- V-STR-5 (its second execution). -/
theorem test_sts : gives (exec .sts (start [(1, 1), (2, 0x777), (3, 0x3004)] 0 []))
    (fun t => strings t 0 0x777 0x3008 && t.pc == 0x1001 && t.wordAt 0x3004 == 0x777 && t.wordAt 0x3008 == 0) := by decide
/-- V-STR-6 (its third execution), V-STR-7 (its second). -/
theorem test_cmps_last : gives (exec .cmps (start [(1, 1), (2, 0x2008), (3, 0x3008)] 0xB [(0x2008, 3), (0x3008, 9)]))
    (fun t => strings t 0 0x200C 0x300C && leaves t 1 0 0xB 0x1001) := by decide
theorem test_cmps_differ : gives (exec .cmps (start [(1, 4), (2, 0x2004), (3, 0x3004)] 9 [(0x2004, 2), (0x3004, 7)]))
    (fun t => strings t 3 0x2008 0x3008 && leaves t 1 3 4 0x1001) := by decide
/-- V-STR-9 and V-STR-10 (their first executions). -/
theorem test_mvnb : gives (exec .mvnb (start [(1, 2), (2, 0x2001), (3, 0x3003)] 0 [(0x2001, 0x1ABC)]))
    (fun t => strings t 1 0x2002 0x3004 && t.pc == 0x1000 && t.byteAt 0x3003 == 0x1ABC) := by decide
theorem test_mvpb : gives (exec .mvpb (start [(1, 2), (2, 0x2002), (3, 0x3004)] 0 [(0x2002, 0x0123)]))
    (fun t => strings t 1 0x2001 0x3003 && t.pc == 0x1000 && t.byteAt 0x3004 == 0x0123) := by decide
/-- V-STR-11 (its second execution). -/
theorem test_stsb : gives (exec .stsb (start [(1, 1), (2, 0x123456789ABCD), (3, 0x3002)] 0 []))
    (fun t => strings t 0 0x123456789ABCD 0x3003 && t.pc == 0x1001 && t.byteAt 0x3002 == 0x0BCD && t.byteAt 0x3003 == 0) := by decide
/-- V-STR-12: an equal pair, and 6 against 0x1FFF widened with sign. -/
theorem test_cmpsb_equal : gives (exec .cmpsb (start [(1, 4), (2, 0x2000), (3, 0x3000)] 0 [(0x2000, 5), (0x3000, 5)]))
    (fun t => strings t 3 0x2001 0x3001 && leaves t 1 3 9 0x1000) := by decide
theorem test_cmpsb_differ : gives (exec .cmpsb (start [(1, 3), (2, 0x2001), (3, 0x3001)] 9 [(0x2001, 6), (0x3001, 0x1FFF)]))
    (fun t => strings t 2 0x2002 0x3002 && leaves t 1 2 0 0x1001) := by decide

/-! ### The instruction boundary -/

/-- `vectored` at pc = 0x1001, where memory holds NOP, with these inputs at the coming boundary. -/
def atBoundary (sr : Word) (run : RunState) (now : Inputs) : State :=
  { ({ vectored sr with pc := 0x1001 }).withFetchWord 13 0x01D4 with run := run, inputs := [now] }

/-- V-INT-1, V-INT-2. -/
theorem test_irq_input : gives (step (atBoundary 8 .running ⟨false, false, true⟩))
    (fun t => leaves t 31 0x2FF8 0x18 0x4000 && pushedTrap t 0x1001 8 && t.inputs == []) := by decide
theorem test_irq_masked : gives (step (atBoundary 0x10 .running ⟨false, false, true⟩)) (fun t => leaves t 31 0x3000 0x10 0x1002) := by decide
/-- V-INT-3. -/
theorem test_nmi_input : gives (step (atBoundary 0x10 .running ⟨false, true, true⟩))
    (fun t => leaves t 31 0x2FF8 0x10 0x6000 && pushedTrap t 0x1001 0x10) := by decide
/-- V-INT-4: this boundary only ends the wait; the next one runs the instruction at 0x1001. -/
theorem test_irq_ends_wait : gives (step (atBoundary 0x10 .waiting ⟨false, false, true⟩))
    (fun t => t.run == .running && t.pc == 0x1001 && t.reg 31 == 0x3000) := by decide
/-- V-INT-6, V-INT-7. -/
theorem test_rst_input : gives (step (atBoundary 0xEF .stopped ⟨true, true, true⟩))
    (fun t => leaves t 31 0x3000 0xBF 0x5000 && t.run == .running) := by decide
/-- R197, R236: a stopped core does not answer nmi. -/
theorem test_stopped : gives (step (atBoundary 0 .stopped ⟨false, true, true⟩)) (fun t => t == { atBoundary 0 .stopped ⟨false, true, true⟩ with inputs := [] }) := by
  decide

/-- V-ALU-1 through the fetch and the decoder. -/
theorem test_step_add : gives (step ((start [(2, 5), (3, 7)] 0 []).withFetchWord 26 0x0031040)) (fun t => leaves t 1 0xC 0 0x1002) := by decide
/-- R57: an instruction across the top of memory. -/
theorem test_step_at_top : gives (step ({ start [(2, 5), (3, 7)] 0 [] with pc := 0xFFFFFFFFFFFFF }.withFetchWord 26 0x0031040))
    (fun t => leaves t 1 0xC 0 1 && t.byteAt 0 == 0x0018) := by decide
/-- R101: a step on an unassigned encoding is refused. -/
theorem test_step_unassigned : refuses (step ((start [] 0 []).withFetchWord 13 0x0003)) .unassignedEncoding := by decide
/-- R251: a start at 0x1000 in any state, here a stopped core with b = 1; the first step runs the program's first instruction. -/
theorem test_start : gives (step (State.start { State.reset with run := .stopped, flags := flagsOf 0x40, inputs := [⟨true, true, true⟩] }
    [(0x1000, [0, 0]), (0x1000, [0x1040, 0x0018])] 0x1000 [(2, 5), (3, 7), (31, 0x3000)]))
    (fun t => leaves t 1 0xC 0x10 0x1002 && t.reg 31 == 0x3000) := by decide
/-- Log 4: from reset with nothing placed the first step runs ADD R0,R0,R0. -/
theorem test_step_from_reset : gives (step State.reset) (fun t => leaves t 0 0 0x18 2) := by decide

/-! ### States that meet the hypotheses of the statements -/

theorem witness_DecodeEncodeAgree : (Instr.subRR 31 0 0).wellFormed = true ∧ (Instr.addRR 0 0 0).wellFormed = true := by decide
theorem witness_DecodedIsWellFormed : decode [0x1040, 0x0018, 0x0003] = .ok (.addRR 1 2 3) := by decide
/-- One for each of the five clauses, at the first or the last opcode of its list. -/
theorem witness_UnusedFieldsAreIgnored :
    (fieldSel 0o36#52 = 0#1 ∧ (fieldOp 0o36#52).toNat = 0o36) ∧ (fieldSel 0x2000006#52 = 1#1 ∧ (fieldOp 0x2000006#52).toNat = 0o06) ∧
    (fieldOp 0o76#52).toNat = 0o76 ∧ ((fieldOp 0o24#52).toNat = 0o24 ∧ (fieldOp 0o434#52).toNat = 0o34 ∧ fieldFn3 0o434#52 ≠ 3#3) ∧
    (fieldOp 0o65#52).toNat = 0o65 := by decide
/-- The three clauses, at the boundaries of the unassigned functions of 24o, 34o and 25o. -/
theorem witness_UnassignedEncodingsAreRefused :
    (Claims.unassigned 0o77 ∧ Claims.unassigned 0o324 ∧ Claims.unassigned 0o524 ∧ Claims.unassigned 0o434 ∧ Claims.unassigned 0o734 ∧
      Claims.unassigned 0o125 ∧ Claims.unassigned 0o735) ∧
    (¬ Claims.unassigned 0o224 ∧ ¬ Claims.unassigned 0o424 ∧ ¬ Claims.unassigned 0o334 ∧ ¬ Claims.unassigned 0o025 ∧ ¬ Claims.unassigned 0o76) := by
  refine ⟨⟨?_, ?_, ?_, ?_, ?_, ?_, ?_⟩, ?_, ?_, ?_, ?_, ?_⟩ <;> (simp only [Claims.unassigned]; decide)
theorem witness_UnassignedEncodingsAreRefused_step :
    let s := (start [] 0 []).withFetchWord 13 0o77
    s.quiet ∧ s.run = .running ∧ s.fetchBytes = .ok [0o77] ∧ decode [0o77] = .error (.unassignedOpcode 0o77) := by
  unfold State.quiet; decide
theorem witness_StepRunsTheDecodedInstruction :
    let s := atBoundary 0 .running ⟨false, false, false⟩
    s.inputsNow.rst = false ∧ s.inputsNow.nmi = false ∧ s.inputsNow.irq = false ∧ s.run = .running ∧ s.fetchBytes = .ok [0x01D4] ∧
      decode [0x01D4] = .ok .nop := by decide
theorem witness_StepRunsTheDecodedInstruction_masked :
    let s := atBoundary 0x10 .running ⟨false, false, true⟩
    s.inputsNow.rst = false ∧ s.inputsNow.nmi = false ∧ s.inputsNow.irq = true ∧ s.flags.i = true ∧ s.run = .running ∧
      s.fetchBytes = .ok [0x01D4] := by decide
/-- Across the top of memory. -/
theorem witness_FetchReadsTheInstructionAtPc :
    let s := { start [] 0 [] with pc := 0xFFFFFFFFFFFFF }.withFetchWord 26 0x0031040
    ∀ k : Nat, k < (Instr.addRR 1 2 3).length →
      (encode (.addRR 1 2 3))[k]? = some (s.byteAt (s.pc + BitVec.ofNat 52 k)) ∧ s.oldBytes (s.pc + BitVec.ofNat 52 k) = [] := by decide
theorem witness_FetchSeesOnlyBytesHeld :
    (start [] 0 []).oldBytes 0x1000 = [] ∧ ((start [] 0 []).putByte 0x1000 7).oldBytes 0x1000 = [0] := by decide
theorem witness_EveryChangedByteIsNoted :
    let s := start [(1, 7), (2, 0x2000)] 0 []
    s.mem.wf = true ∧ gives (exec (.stRI9 1 2 0) s) (fun t => t.byteAt 0x2000 != s.byteAt 0x2000 && t.overwritten == [(0x2000, 0)]) := by decide
/-- Each clause, at R31, at the last register of the list and at a segment across the top of memory. -/
theorem witness_StartWithoutAResetVector :
    let program : List (Word × List Byte) := [(0x1000, [0x1040, 0x0018])]
    let t := State.reset.start (program ++ [(0xFFFFFFFFFFFFF, [3, 4])]) 0x1000 [(31, 0x3000), (1, 9), (0, 5)]
    State.reset.mem.wf = true ∧ t.byteAt 0xFFFFFFFFFFFFF = 3 ∧ t.byteAt 0 = 4 ∧ t.byteAt 1 = 0 ∧ t.byteAt 0x1001 = 0x0018 ∧
      t.reg 31 = 0x3000 ∧ t.reg 1 = 9 ∧ t.reg 0 = 0 ∧ t.reg 2 = 0 ∧ t.fetchView 0x1000 = 0x1040 := by decide
theorem witness_ResetInputResets : (atBoundary 0 .stopped ⟨true, true, true⟩).inputsNow.rst = true := by decide
/-- One for each of the three clauses. -/
theorem witness_InterruptInputsAreAnswered :
    (let s := atBoundary 0x10 .waiting ⟨false, true, true⟩
     s.inputsNow.rst = false ∧ s.mem.wf = true ∧ s.run ≠ .stopped ∧ s.inputsNow.nmi = true) ∧
    (let s := atBoundary 0 .running ⟨false, false, true⟩
     s.inputsNow.rst = false ∧ s.mem.wf = true ∧ s.run ≠ .stopped ∧ s.inputsNow.nmi = false ∧ s.inputsNow.irq = true ∧ s.flags.i = false) ∧
    (let s := atBoundary 0x10 .waiting ⟨false, false, true⟩
     s.inputsNow.rst = false ∧ s.mem.wf = true ∧ s.run = .waiting ∧ s.inputsNow.nmi = false ∧ s.inputsNow.irq = true ∧ s.flags.i = true) := by
  decide
theorem witness_IdleCoreDoesNothing :
    (let s := atBoundary 0 .stopped ⟨false, true, true⟩
     s.inputsNow.rst = false ∧ s.run = .stopped) ∧
    (let s := atBoundary 0 .waiting ⟨false, false, false⟩
     s.inputsNow.rst = false ∧ s.run = .waiting ∧ s.inputsNow.nmi = false ∧ s.inputsNow.irq = false) := by decide
/-- Each of these needs a canonical memory only; the second state's stack pointer wraps below address 0. -/
theorem witness_TrapEntryEffect : (vectored 9).mem.wf = true ∧ (start [(31, 4)] 0 []).mem.wf = true := by decide
theorem witness_RtiUndoesATrap : (vectored 0xFF).mem.wf = true ∧ (start [(31, 4)] 0 []).mem.wf = true := by decide
theorem witness_MemWriteReplacesTheBytes : (vectored 0).mem.wf = true := by decide
theorem witness_StackPrimitives : (vectored 0).mem.wf = true ∧ (start [(31, 0)] 0 []).mem.wf = true := by decide
theorem witness_StResult : (start [(1, 7), (2, 0x2000)] 0 [(0x2000, 55)]).mem.wf = true := by decide
theorem witness_StbResult : (start [(1, 7), (2, 0x2001)] 0 [(0x2000, 55)]).mem.wf = true := by decide
theorem witness_PhpAndPlpResult : (start [(31, 0x3000)] 0x15 []).mem.wf = true := by decide
theorem witness_PshResult : (start [(5, 7), (31, 0)] 0 []).mem.wf = true := by decide
theorem witness_JsrResult : (start [(5, 0x2345), (31, 0x3000)] 0 []).mem.wf = true := by decide
theorem witness_BrkResult : (vectored 0x10).mem.wf = true := by decide
theorem witness_TrapOpcodesResult : (vectored 1).mem.wf = true := by decide
theorem witness_WordMoves : (start [(1, 0), (2, 0x2000), (3, 0x3000)] 0 [(0x2000, 5)]).mem.wf = true := by decide
theorem witness_ByteMoves : (start [(1, 1), (2, 0x2001), (3, 0x3003)] 0 [(0x2000, 5)]).mem.wf = true := by decide
theorem witness_Fills : (start [(1, 2), (2, 0x777), (3, 0x3000)] 0 []).mem.wf = true := by decide
theorem witness_PopResult : (5 : Reg) ≠ 0#5 ∧ (5 : Reg) ≠ sp := by decide
/-- Both clauses of each shift, at the counts 0 and 51. -/
theorem witness_AslResult : ((start [(3, 51)] 0 []).reg 3).toNat = 51 ∧ ((start [] 0 []).reg 3).toNat = 0 ∧ (51#6).toNat < 52 := by decide
theorem witness_RolResult : ((start [(4, 51)] 0 []).reg 4).toNat = 51 ∧ ((start [] 0 []).reg 0).toNat = 0 ∧ (51#6).toNat < 52 := by decide
theorem witness_LsrResult : ((start [(3, 51)] 1 []).reg 3).toNat = 51 ∧ ((start [] 1 []).reg 3).toNat = 0 ∧ (51#6).toNat < 52 := by decide
theorem witness_RorResult : ((start [(4, 51)] 1 []).reg 4).toNat = 51 ∧ ((start [] 1 []).reg 0).toNat = 0 ∧ (51#6).toNat < 52 := by decide
/-- Both kinds of count, at 52 and at the largest. -/
theorem witness_WideShiftsComplete :
    ((start [(3, 52)] 0 []).reg 3).toNat = 52 ∧ 52 ≤ ((start [(3, 0xFFFFFFFFFFFFF)] 0 []).reg 3).toNat ∧ 52 ≤ (52#6).toNat ∧ 52 ≤ (63#6).toNat := by
  decide
theorem witness_LoadAfterStoreReadsTheWord :
    ∃ t u, (start [(1, 7), (2, 0x2001)] 0 []).mem.wf = true ∧ (5 : Reg) ≠ 0#5 ∧ exec (.stRR 1 2 0) (start [(1, 7), (2, 0x2001)] 0 []) = .next t ∧
      exec (.ldRR 5 2 0) t = .next u := ⟨_, _, by decide, by decide, rfl, rfl⟩
theorem witness_RtsResult : (0x1E14#13).extractLsb' 0 9 = 0o024#9 ∧ (0x0014#13).extractLsb' 0 9 = 0o024#9 := by decide
theorem witness_NopResult : (0x1FD4#13).extractLsb' 0 9 = 0o724#9 ∧ (0x01D4#13).extractLsb' 0 9 = 0o724#9 := by decide
theorem witness_FlagsWrittenByTheTable :
    (∃ t, exec .nop (start [] 0xFF []) = .next t) ∧ flagsWritten .nop = ⟨false, false, false, false, false, false, false, false⟩ :=
  ⟨⟨_, rfl⟩, by decide⟩
theorem witness_RegistersWrittenByTheTable :
    (∃ t, exec (.pop 5) (start [(31, 0x2FFC)] 0 []) = .next t) ∧ (4 : Reg) ∉ regsWritten (.pop 5) := ⟨⟨_, rfl⟩, by decide⟩
/-- Both clauses: a form that stores nothing, and one that stores. -/
theorem witness_MemoryWrittenByTheTable :
    (start [(2, 0x2000)] 0 []).mem.wf = true ∧ (∃ t, exec (.addRR 1 2 3) (start [(2, 0x2000)] 0 []) = .next t) ∧
      bytesStored (start [(2, 0x2000)] 0 []) (.addRR 1 2 3) = none ∧ (∃ t, exec (.stRI9 1 2 4) (start [(2, 0x2000)] 0 []) = .next t) ∧
      bytesStored (start [(2, 0x2000)] 0 []) (.stRI9 1 2 4) = some (0x2004, 4) := ⟨by decide, ⟨_, rfl⟩, by decide, ⟨_, rfl⟩, by decide⟩
theorem witness_RunStateChangesOnlyByWaiAndStp :
    (∃ t, exec .rti (start [(31, 0x2FF8)] 0 []) = .next t) ∧ Instr.rti ≠ .wai ∧ Instr.rti ≠ .stp ∧ (start [(31, 0x2FF8)] 0 []).run = .running :=
  ⟨⟨_, rfl⟩, by decide, by decide, by decide⟩
/-- A state that has stored a byte, and one at a boundary with nmi. -/
theorem witness_EveryStepKeepsTheInvariant :
    ((start [(31, 0x3000)] 0 []).putByte 0x2000 7).Inv ∧ gives (step ((start [(31, 0x3000)] 0 []).putByte 0x2000 7)) (fun _ => true) ∧
      (atBoundary 0x10 .running ⟨false, true, false⟩).Inv ∧ gives (step (atBoundary 0x10 .running ⟨false, true, false⟩)) (fun _ => true) := by
  unfold State.Inv; decide

end Sys2Proof.Tests
end

section
/-! The scope (00_scope.md): what each meaning that reads or writes memory answers, said once as its next state, and from that that
no instruction stops; and what stands around exec in one step. -/

namespace Sys2Proof.Machine

/-! ### The meanings that read or write memory, as next states

Every other meaning is written as a next state already. These are sequences of operations that may stop; under this machine's
parameters none does. -/

/-- LD at an effective address (R151). -/
@[simp] theorem loadWordTo_eq (s : State) (rt : Reg) (ea : Word) (len : Nat) :
    loadWordTo s rt ea len = .next (s.loaded rt (s.wordAt ea) len) := by
  rw [loadWordTo, State.loadWord_eq]; rfl

/-- ST at an effective address (R153). -/
@[simp] theorem storeWordFrom_eq (s : State) (rs : Reg) (ea : Word) (len : Nat) :
    storeWordFrom s rs ea len = .next ((s.putWord ea (s.reg rs)).advance len) := by
  rw [storeWordFrom, State.storeWord_eq]; rfl

/-- LDB (R152). -/
@[simp] theorem execLdbRI36_eq (rt ra : Reg) (disp : BitVec 36) (s : State) :
    execLdbRI36 rt ra disp s = .next (s.loaded rt (extByte (s.byteAt (s.displaced ra disp))) 4) := rfl

/-- STB (R154). -/
@[simp] theorem execStbRI36_eq (rs ra : Reg) (disp : BitVec 36) (s : State) :
    execStbRI36 rs ra disp s = .next ((s.putByte (s.displaced ra disp) (lowByte (s.reg rs))).advance 4) := rfl

/-- PHP (R161). -/
@[simp] theorem execPhp_eq (s : State) : execPhp s = .next ((s.pushed s.srWord).advance 1) := by
  rw [execPhp, State.push_eq]; rfl

/-- PLP (R162). -/
@[simp] theorem execPlp_eq (s : State) :
    execPlp s = .next (((s.setReg sp (s.reg sp + 4#52)).loadSr (s.wordAt (s.reg sp))).advance 1) := by
  rw [execPlp, State.pull_eq]; rfl

/-- PSH: the register is read after the decrement (R163). -/
@[simp] theorem execPsh_eq (ra : Reg) (s : State) :
    execPsh ra s = .next (((s.setReg sp (s.reg sp - 4#52)).putWord (s.reg sp - 4#52)
      ((s.setReg sp (s.reg sp - 4#52)).reg ra)).advance 1) := by
  simp only [execPsh, State.storeWord_eq, State.setReg_sp]; rfl

/-- POP: the register is written before the increment (R164). -/
@[simp] theorem execPop_eq (rt : Reg) (s : State) :
    execPop rt s = .next ((((s.setReg rt (s.wordAt (s.reg sp))).setReg sp
      ((s.setReg rt (s.wordAt (s.reg sp))).reg sp + 4#52)).setFlags (s.flags.setNZ (s.wordAt (s.reg sp)))).advance 1) := by
  rw [execPop, State.loadWord_eq]; rfl

/-- JSR abs46: pc of this instruction gives the upper bits of the target (R172). -/
@[simp] theorem execJsrAbs46_eq (addr : BitVec 46) (s : State) :
    execJsrAbs46 addr s = .next ((s.pushed (s.npc 4)).setPc (s.absTarget addr)) := by
  rw [execJsrAbs46, State.push_eq]; rfl

/-- JSR [Ra]: the register is read after the push (R173). -/
@[simp] theorem execJsrReg_eq (ra : Reg) (s : State) :
    execJsrReg ra s = .next ((s.pushed (s.npc 1)).setPc ((s.pushed (s.npc 1)).reg ra)) := by
  rw [execJsrReg, State.push_eq]; rfl

/-- RTS (R174). -/
@[simp] theorem execRts_eq (s : State) :
    execRts s = .next ((s.setReg sp (s.reg sp + 4#52)).setPc (s.wordAt (s.reg sp))) := by
  rw [execRts, State.pull_eq]; rfl

/-- RTI (R175). -/
@[simp] theorem execRti_eq (s : State) :
    execRti s = .next ((((s.setReg sp (s.reg sp + 4#52)).loadSr (s.wordAt (s.reg sp))).setReg sp
      (s.reg sp + 4#52 + 4#52)).setPc (s.wordAt (s.reg sp + 4#52))) := by
  rw [execRti, State.trapReturn_eq, finish_ok]

/-- BRK (R190). -/
@[simp] theorem execBrk_eq (const4 : BitVec 4) (s : State) :
    execBrk const4 s = .next (s.trapped config.vecBrk (s.npc 1) true) := by
  rw [execBrk, State.trapEntry_eq, finish_ok]

/-- RST in program text (R191). -/
@[simp] theorem execRst_eq (s : State) : execRst s = .next (s.trapped config.vecRst (s.npc 1) false) := by
  rw [execRst, State.trapEntry_eq, finish_ok]

/-- NMI in program text (R192). -/
@[simp] theorem execNmi_eq (s : State) : execNmi s = .next (s.trapped config.vecNmi (s.npc 1) false) := by
  rw [execNmi, State.trapEntry_eq, finish_ok]

/-- IRQ in program text (R193). -/
@[simp] theorem execIrq_eq (s : State) : execIrq s = .next (s.trapped config.vecIrq (s.npc 1) false) := by
  rw [execIrq, State.trapEntry_eq, finish_ok]

/-- One element of MVN or MVP (R214, R215). -/
@[simp] theorem moveWord_eq (s : State) (d : Word) :
    moveWord s d = .next (((s.putWord (s.reg yReg) (s.wordAt (s.reg xReg))).stepString d d).repeatOrLeave) := by
  simp only [moveWord, State.loadWord_eq, State.storeWord_eq, bind, Except.bind]; rfl

/-- One element of MVNB or MVPB (R219, R220). -/
@[simp] theorem moveByte_eq (s : State) (d : Word) :
    moveByte s d = .next (((s.putByte (s.reg yReg) (s.byteAt (s.reg xReg))).stepString d d).repeatOrLeave) := rfl

/-- One element of STS (R216). -/
@[simp] theorem execSts_eq (s : State) :
    execSts s = .next (((s.putWord (s.reg yReg) (s.reg xReg)).stepString 0#52 4#52).repeatOrLeave) := by
  rw [execSts, State.storeWord_eq]; rfl

/-- One element of STSB (R221). -/
@[simp] theorem execStsb_eq (s : State) :
    execStsb s = .next (((s.putByte (s.reg yReg) (lowByte (s.reg xReg))).stepString 0#52 1#52).repeatOrLeave) := rfl

/-- One element of CMPS (R217). -/
@[simp] theorem execCmps_eq (s : State) :
    execCmps s = .next ((s.stepString 4#52 4#52).compareOrLeave (s.wordAt (s.reg xReg)) (s.wordAt (s.reg yReg))) := by
  simp only [execCmps, State.loadWord_eq, bind, Except.bind]; rfl

/-- One element of CMPSB (R222). -/
@[simp] theorem execCmpsb_eq (s : State) :
    execCmpsb s = .next ((s.stepString 1#52 1#52).compareOrLeave (extByte (s.byteAt (s.reg xReg)))
      (extByte (s.byteAt (s.reg yReg)))) := rfl

/-! ### A step that runs the instruction at pc -/

/-- The bytes fetched do not depend on the coming inputs. -/
theorem State.fetchFrom_withInputs (s : State) (l : List Inputs) (n : Nat) (a : Word) :
    { s with inputs := l }.fetchFrom n a = s.fetchFrom n a := by
  induction n generalizing a with
  | zero => rfl
  | succ n ih => rw [State.fetchFrom, State.fetchFrom, ih]; rfl

/-- The instruction's bytes do not depend on the coming inputs. -/
theorem State.fetchBytes_withInputs (s : State) (l : List Inputs) : { s with inputs := l }.fetchBytes = s.fetchBytes := by
  rw [State.fetchBytes, State.fetchBytes, State.fetchFrom_withInputs]; rfl

/-- Where the fetched bytes decode, the meaning runs on the state with the tick moved on (R103; log 9). -/
theorem State.runFetched_of_decode (s : State) (run : Instr → State → Result) (bytes : List Byte) (i : Instr)
    (hfetch : s.fetchBytes = .ok bytes) (hdecode : decode bytes = .ok i) :
    s.runFetched run = run i { s with tick := s.tick + 1 } := by
  simp only [State.runFetched, hfetch, hdecode]

/-- With no reset and no interrupt to take, a running core goes on to the instruction at pc, its inputs used up (R236, R237). -/
theorem State.boundary_of_no_interrupt (s : State) (run : Instr → State → Result) (hrst : s.inputsNow.rst = false)
    (hnmi : s.inputsNow.nmi = false) (hirq : s.inputsNow.irq = false ∨ s.flags.i = true) (hrun : s.run = .running) :
    s.boundary run = { s with inputs := s.inputs.tail }.runFetched run := by
  have hheld : (s.inputsNow.irq && !s.flags.i) = false := by
    rcases hirq with h | h <;> simp [h]
  simp [State.boundary, hrst, hnmi, hheld, hrun]

end Sys2Proof.Machine

namespace Sys2Proof.Claims

open Sys2Proof Sys2Proof.Machine

/-- Settles O52: the forms that read or write memory by their equations above, which rest on no access stopping; the arms of
all others are next states as written. -/
theorem noInstructionStops : Obligations.NoInstructionStops := by
  unfold Obligations.NoInstructionStops
  intro i s
  match i with
  | .ldRR .. | .ldRI9 .. | .ldRI23 .. | .ldRI36 .. => exact ⟨_, loadWordTo_eq ..⟩
  | .stRR .. | .stRI9 .. | .stRI23 .. | .stRI36 .. => exact ⟨_, storeWordFrom_eq ..⟩
  | .ldbRI36 .. => exact ⟨_, execLdbRI36_eq ..⟩
  | .stbRI36 .. => exact ⟨_, execStbRI36_eq ..⟩
  | .php => exact ⟨_, execPhp_eq s⟩
  | .plp => exact ⟨_, execPlp_eq s⟩
  | .psh ra => exact ⟨_, execPsh_eq ra s⟩
  | .pop rt => exact ⟨_, execPop_eq rt s⟩
  | .jsrAbs46 addr => exact ⟨_, execJsrAbs46_eq addr s⟩
  | .jsrReg ra => exact ⟨_, execJsrReg_eq ra s⟩
  | .rts => exact ⟨_, execRts_eq s⟩
  | .rti => exact ⟨_, execRti_eq s⟩
  | .brk const4 => exact ⟨_, execBrk_eq const4 s⟩
  | .rst => exact ⟨_, execRst_eq s⟩
  | .nmi => exact ⟨_, execNmi_eq s⟩
  | .irq => exact ⟨_, execIrq_eq s⟩
  | .mvn | .mvp => exact ⟨_, moveWord_eq s _⟩
  | .mvnb | .mvpb => exact ⟨_, moveByte_eq s _⟩
  | .sts => exact ⟨_, execSts_eq s⟩
  | .stsb => exact ⟨_, execStsb_eq s⟩
  | .cmps => exact ⟨_, execCmps_eq s⟩
  | .cmpsb => exact ⟨_, execCmpsb_eq s⟩
  | .addRR .. | .addRI9 .. | .addRI23 .. | .addRI36 .. | .subRR .. | .subRI9 .. | .subRI23 .. | .subRI36 .. | .cmpRR ..
  | .cmpRI9 .. | .cmpRI23 .. | .cmpRI36 .. | .bitRR .. | .bitRI9 .. | .bitRI23 .. | .bitRI36 .. | .andRR .. | .andRI9 ..
  | .andRI23 .. | .andRI36 .. | .orRR .. | .orRI9 .. | .orRI23 .. | .orRI36 .. | .eorRR .. | .eorRI9 .. | .eorRI23 ..
  | .eorRI36 .. | .aslRR .. | .aslSI6 .. | .rolRR .. | .rolSI6 .. | .lsrRR .. | .lsrSI6 .. | .rorRR .. | .rorSI6 .. =>
    exact ⟨_, rfl⟩
  | .jmpAbs46 _ | .jmpReg _ | .nop | .pfi | .wai | .stp | .sep _ | .rep _ => exact ⟨_, rfl⟩
  | .beqD4 _ | .bneD4 _ | .bplD4 _ | .bmiD4 _ | .bvsD4 _ | .bvcD4 _ | .bcsD4 _ | .bccD4 _ | .braD4 _ | .beqD17 _
  | .bneD17 _ | .bplD17 _ | .bmiD17 _ | .bvsD17 _ | .bvcD17 _ | .bcsD17 _ | .bccD17 _ | .braD17 _ => exact ⟨_, rfl⟩

/-- Settles O7: the boundary answers no input, the fetch does not look at the inputs used up, and the bytes decode. -/
theorem stepRunsTheDecodedInstruction : Obligations.StepRunsTheDecodedInstruction := by
  unfold Obligations.StepRunsTheDecodedInstruction
  intro s bytes i hrst hnmi hirq hrun hfetch hdecode
  have hfetch' : { s with inputs := s.inputs.tail }.fetchBytes = .ok bytes :=
    (s.fetchBytes_withInputs s.inputs.tail).trans hfetch
  calc step s = ({ s with inputs := s.inputs.tail } : State).runFetched exec :=
        s.boundary_of_no_interrupt exec hrst hnmi hirq hrun
    _ = exec i { s with inputs := s.inputs.tail, tick := s.tick + 1 } :=
        State.runFetched_of_decode _ exec bytes i hfetch' hdecode

end Sys2Proof.Claims
end

section
/-! The state chapter (10_state.md), over every instruction: what a next state may differ in from the state before it, composed
operation by operation, and from that the tables of R27 and R23, the run state of R244 and the invariant. -/

namespace Sys2Proof.Machine

/-! ### The invariant and the updates of the state -/

/-- The invariant speaks of memory, the slot of R0 and the notes alone. -/
theorem State.Inv.congr {s t : State} (h : s.Inv) (hmem : t.mem = s.mem) (hregs : t.regs = s.regs)
    (hnotes : t.overwritten = s.overwritten) : t.Inv := by
  simpa only [State.Inv, hmem, hregs, hnotes] using h

/-- A register write leaves slot 0 alone (R21). -/
theorem State.setReg_slot_zero (s : State) (r : Reg) (v : Word) : (s.setReg r v).regs[0] = s.regs[0] := by
  unfold State.setReg
  by_cases hr : r = 0#5
  · rw [if_pos hr]
  · have hne : r.toNat ≠ 0 := fun h => hr (BitVec.eq_of_toNat_eq h)
    rw [if_neg hr]
    exact Vector.getElem_set_ne r.isLt (by decide) hne

/-- Writing back a register's own value changes nothing. -/
theorem State.setReg_reg_self (s : State) (r : Reg) : s.setReg r (s.reg r) = s := by
  unfold State.setReg State.reg
  by_cases hr : r = 0#5
  · rw [if_pos hr]
  · rw [if_neg hr, if_neg hr, Vector.set_getElem_self]

/-- A fill leaves X alone: its step is 0 (R216, R221). -/
theorem State.stepString_zero (s : State) (dy : Word) :
    s.stepString 0#52 dy =
      (s.setReg yReg (s.reg yReg + dy)).setReg acc ((s.setReg yReg (s.reg yReg + dy)).reg acc - 1#52) := by
  simp only [State.stepString, BitVec.add_zero, State.setReg_reg_self]

theorem State.Inv.setReg {s : State} (h : s.Inv) (r : Reg) (v : Word) : (s.setReg r v).Inv := by
  obtain ⟨hmem, hslot, hnotes⟩ := h
  exact ⟨by simpa using hmem, (s.setReg_slot_zero r v).trans hslot, by simpa using hnotes⟩

/-- A store notes at most the byte it replaces, at its own address (log 15). -/
theorem State.mem_putByte_overwritten {s : State} {a : Word} {v : Byte} {c : Cell}
    (h : c ∈ (s.putByte a v).overwritten) : c = (a.toNat, s.byteAt a) ∨ c ∈ s.overwritten := by
  simp only [State.putByte] at h
  split at h
  · exact .inr h
  · exact List.mem_cons.mp h

theorem State.Inv.putByte {s : State} (h : s.Inv) (a : Word) (v : Byte) : (s.putByte a v).Inv := by
  obtain ⟨hmem, hslot, hnotes⟩ := h
  refine ⟨s.putByte_wf a v hmem, hslot, fun c hc => ?_⟩
  rcases State.mem_putByte_overwritten hc with rfl | hc
  · exact a.isLt
  · exact hnotes c hc

theorem State.Inv.putWord {s : State} (h : s.Inv) (a v : Word) : (s.putWord a v).Inv :=
  (((h.putByte _ _).putByte _ _).putByte _ _).putByte _ _

/-! ### What may differ between two states -/

/-- Every flag that fl does not mark is the same in f and g. -/
def Flags.SameBut (fl f g : Flags) : Prop :=
  (fl.c = false → g.c = f.c) ∧ (fl.v = false → g.v = f.v) ∧ (fl.n = false → g.n = f.n) ∧ (fl.z = false → g.z = f.z) ∧
  (fl.i = false → g.i = f.i) ∧ (fl.u = false → g.u = f.u) ∧ (fl.b = false → g.b = f.b) ∧ (fl.d = false → g.d = f.d)

theorem Flags.SameBut.refl (fl f : Flags) : Flags.SameBut fl f f :=
  ⟨fun _ => rfl, fun _ => rfl, fun _ => rfl, fun _ => rfl, fun _ => rfl, fun _ => rfl, fun _ => rfl, fun _ => rfl⟩

/-! The rows of R27's table, for each computation of the flags: c v n z i u b d, true where it may write the flag. -/

theorem Flags.sameBut_setNZ (f : Flags) (r : Word) :
    Flags.SameBut ⟨false, false, true, true, false, false, false, false⟩ f (f.setNZ r) := by
  simp [Flags.SameBut, Flags.setNZ]

theorem Flags.sameBut_afterAdd (f : Flags) (a b : Word) :
    Flags.SameBut ⟨true, true, true, true, false, false, false, false⟩ f (f.afterAdd a b) := by
  simp [Flags.SameBut, Flags.afterAdd, Flags.setNZ]

theorem Flags.sameBut_afterSub (f : Flags) (a b : Word) :
    Flags.SameBut ⟨true, true, true, true, false, false, false, false⟩ f (f.afterSub a b) := by
  simp [Flags.SameBut, Flags.afterSub, Flags.setNZ]

theorem Flags.sameBut_afterCmp (f : Flags) (a b : Word) :
    Flags.SameBut ⟨true, false, true, true, false, false, false, false⟩ f (f.afterCmp a b) := by
  simp [Flags.SameBut, Flags.afterCmp, Flags.setNZ]

theorem Flags.sameBut_afterBit (f : Flags) (r : Word) :
    Flags.SameBut ⟨false, true, true, true, false, false, false, false⟩ f (f.afterBit r) := by
  simp [Flags.SameBut, Flags.afterBit, Flags.setNZ]

theorem Flags.sameBut_afterShift (f : Flags) (carry : Bool) (r : Word) :
    Flags.SameBut ⟨true, false, true, true, false, false, false, false⟩ f (f.afterShift carry r) := by
  simp [Flags.SameBut, Flags.afterShift, Flags.setNZ]

theorem Flags.sameBut_setMasked (f : Flags) (l : SrLayout) (mask : BitVec 7) (on : Bool) :
    Flags.SameBut ⟨true, true, true, true, true, true, false, false⟩ f (f.setMasked l mask on) := by
  simp [Flags.SameBut, Flags.setMasked]

/-- An image replaces all eight flags (R29). -/
theorem Flags.sameBut_all (f g : Flags) : Flags.SameBut ⟨true, true, true, true, true, true, true, true⟩ f g := by
  simp [Flags.SameBut]

/-- From s to t only the flags marked in fl and the registers of rs may have changed, the run state has stayed or become one of us,
and the invariant is kept. -/
structure State.Touches (fl : Flags) (rs : List Reg) (us : List RunState) (s t : State) : Prop where
  flags : Flags.SameBut fl s.flags t.flags
  regs : ∀ q, q ∉ rs → t.reg q = s.reg q
  run : t.run = s.run ∨ t.run ∈ us
  inv : s.Inv → t.Inv

namespace State.Touches

variable {fl : Flags} {rs : List Reg} {us : List RunState} {s t : State}

theorem refl : Touches fl rs us s s := ⟨.refl _ _, fun _ _ => rfl, .inl rfl, id⟩

theorem setReg (h : Touches fl rs us s t) {r : Reg} (hr : r ∈ rs) (v : Word) : Touches fl rs us s (t.setReg r v) where
  flags := by simpa using h.flags
  regs q hq := (t.setReg_reg_ne r q v fun hqr => hq (hqr ▸ hr)).trans (h.regs q hq)
  run := by simpa using h.run
  inv hs := (h.inv hs).setReg r v

theorem setFlags (h : Touches fl rs us s t) {f : Flags} (hf : Flags.SameBut fl s.flags f) :
    Touches fl rs us s (t.setFlags f) :=
  ⟨hf, h.regs, h.run, fun hs => (h.inv hs).congr rfl rfl rfl⟩

theorem loadSr (h : Touches ⟨true, true, true, true, true, true, true, true⟩ rs us s t) (w : Word) :
    Touches ⟨true, true, true, true, true, true, true, true⟩ rs us s (t.loadSr w) :=
  h.setFlags (Flags.sameBut_all _ _)

theorem setPc (h : Touches fl rs us s t) (pc : Word) : Touches fl rs us s (t.setPc pc) :=
  ⟨h.flags, h.regs, h.run, fun hs => (h.inv hs).congr rfl rfl rfl⟩

theorem advance (h : Touches fl rs us s t) (len : Nat) : Touches fl rs us s (t.advance len) := h.setPc _

theorem setRun (h : Touches fl rs us s t) {u : RunState} (hu : u ∈ us) : Touches fl rs us s { t with run := u } :=
  ⟨h.flags, h.regs, .inr hu, fun hs => (h.inv hs).congr rfl rfl rfl⟩

theorem putByte (h : Touches fl rs us s t) (a : Word) (v : Byte) : Touches fl rs us s (t.putByte a v) :=
  ⟨h.flags, h.regs, h.run, fun hs => (h.inv hs).putByte a v⟩

theorem putWord (h : Touches fl rs us s t) (a v : Word) : Touches fl rs us s (t.putWord a v) :=
  (((h.putByte _ _).putByte _ _).putByte _ _).putByte _ _

theorem pushed (h : Touches fl rs us s t) (hsp : sp ∈ rs) (v : Word) : Touches fl rs us s (t.pushed v) :=
  (h.setReg hsp _).putWord _ _

theorem stepString (h : Touches fl rs us s t) (hacc : acc ∈ rs) (hx : xReg ∈ rs) (hy : yReg ∈ rs) (dx dy : Word) :
    Touches fl rs us s (t.stepString dx dy) :=
  ((h.setReg hx _).setReg hy _).setReg hacc _

theorem stepString_zero (h : Touches fl rs us s t) (hacc : acc ∈ rs) (hy : yReg ∈ rs) (dy : Word) :
    Touches fl rs us s (t.stepString 0#52 dy) := by
  rw [State.stepString_zero]
  exact (h.setReg hy _).setReg hacc _

theorem repeatOrLeave (h : Touches fl rs us s t) : Touches fl rs us s t.repeatOrLeave := by
  unfold State.repeatOrLeave
  split
  · exact h.advance 1
  · exact h

theorem compareOrLeave (h : Touches fl rs us s t) (t1 t2 : Word) (hf : Flags.SameBut fl s.flags (t.flags.afterCmp t1 t2)) :
    Touches fl rs us s (t.compareOrLeave t1 t2) := by
  unfold State.compareOrLeave
  split
  · exact h.advance 1
  · split
    · exact h.setFlags hf
    · exact (h.setFlags hf).advance 1

end State.Touches

/-! ### What each shared operation touches

The flags are written as in flagsWritten: c v n z i u b d. -/

theorem aluAdd_touches (s : State) (rt : Reg) (a b : Word) (len : Nat) :
    Completes (aluAdd s rt a b len) (s.Touches ⟨true, true, true, true, false, false, false, false⟩ [rt] []) :=
  ⟨_, rfl, ((State.Touches.refl.setReg (List.mem_singleton_self rt) _).setFlags (Flags.sameBut_afterAdd ..)).advance _⟩

theorem aluSub_touches (s : State) (rt : Reg) (a b : Word) (len : Nat) :
    Completes (aluSub s rt a b len) (s.Touches ⟨true, true, true, true, false, false, false, false⟩ [rt] []) :=
  ⟨_, rfl, ((State.Touches.refl.setReg (List.mem_singleton_self rt) _).setFlags (Flags.sameBut_afterSub ..)).advance _⟩

theorem aluCmp_touches (s : State) (a b : Word) (len : Nat) :
    Completes (aluCmp s a b len) (s.Touches ⟨true, false, true, true, false, false, false, false⟩ [] []) :=
  ⟨_, rfl, (State.Touches.refl.setFlags (Flags.sameBut_afterCmp ..)).advance _⟩

theorem aluBit_touches (s : State) (a b : Word) (len : Nat) :
    Completes (aluBit s a b len) (s.Touches ⟨false, true, true, true, false, false, false, false⟩ [] []) :=
  ⟨_, rfl, (State.Touches.refl.setFlags (Flags.sameBut_afterBit ..)).advance _⟩

theorem aluLogic_touches (s : State) (rt : Reg) (r : Word) (len : Nat) :
    Completes (aluLogic s rt r len) (s.Touches ⟨false, false, true, true, false, false, false, false⟩ [rt] []) :=
  ⟨_, rfl, ((State.Touches.refl.setReg (List.mem_singleton_self rt) _).setFlags (Flags.sameBut_setNZ ..)).advance _⟩

theorem shiftTo_touches (s : State) (op : ShiftOp) (rt : Reg) (a count : Word) :
    Completes (shiftTo s op rt a count) (s.Touches ⟨true, false, true, true, false, false, false, false⟩ [rt] []) :=
  ⟨_, rfl, ((State.Touches.refl.setReg (List.mem_singleton_self rt) _).setFlags (Flags.sameBut_afterShift ..)).advance _⟩

theorem State.loaded_touches (s : State) (rt : Reg) (r : Word) (len : Nat) :
    s.Touches ⟨false, false, true, true, false, false, false, false⟩ [rt] [] (s.loaded rt r len) :=
  ((State.Touches.refl.setReg (List.mem_singleton_self rt) _).setFlags (Flags.sameBut_setNZ ..)).advance _

theorem branchIf_touches {n : Nat} (s : State) (cond : Bool) (len : Nat) (disp : BitVec n) (fl : Flags) :
    Completes (branchIf s cond len disp) (s.Touches fl [] []) := by
  refine ⟨_, rfl, ?_⟩
  cases cond
  · exact State.Touches.refl.advance _
  · exact State.Touches.refl.setPc _

theorem State.trapped_touches (s : State) (vec ret : Word) (bval : Bool) :
    s.Touches ⟨false, false, false, false, true, false, true, false⟩ [sp] [.running] (s.trapped vec ret bval) :=
  have hpushed := ((State.Touches.refl.setFlags (f := { s.flags with b := bval }) (by simp [Flags.SameBut])).pushed
    (List.mem_singleton_self _) ret).pushed (List.mem_singleton_self _) (s.setFlags { s.flags with b := bval }).srWord
  ((hpushed.setFlags (f := { s.flags with b := bval, i := true }) (by simp [Flags.SameBut])).setPc _).setRun
    (List.mem_singleton_self _)

/-- SEP and REP reach c v n z i u, in whatever layout of SR (R198, R199). -/
theorem State.setMasked_touches (s : State) (l : SrLayout) (mask : BitVec 7) (on : Bool) :
    s.Touches ⟨true, true, true, true, true, true, false, false⟩ [] []
      ((s.setFlags (s.flags.setMasked l mask on)).advance 1) :=
  (State.Touches.refl.setFlags (Flags.sameBut_setMasked ..)).advance _

/-! ### What each instruction touches -/

/-- The run states an instruction may lead to, other than the one it starts in: WAI and STP end the running state, a trap makes it
running (R196, R197, R233). -/
def runsWritten : Instr → List RunState
  | .wai => [.waiting]
  | .stp => [.stopped]
  | .brk _ | .rst | .nmi | .irq => [.running]
  | _ => []

/-- Every instruction completes, and touches only the flags of R27's table, the registers of R23's and the run state as runsWritten
says; the invariant is kept. -/
theorem exec_touches (i : Instr) (s : State) :
    Completes (exec i s) (s.Touches (flagsWritten i) (regsWritten i) (runsWritten i)) := by
  match i with
  | .addRR .. | .addRI9 .. | .addRI23 .. | .addRI36 .. => exact aluAdd_touches ..
  | .subRR .. | .subRI9 .. | .subRI23 .. | .subRI36 .. => exact aluSub_touches ..
  | .cmpRR .. | .cmpRI9 .. | .cmpRI23 .. | .cmpRI36 .. => exact aluCmp_touches ..
  | .bitRR .. | .bitRI9 .. | .bitRI23 .. | .bitRI36 .. => exact aluBit_touches ..
  | .andRR .. | .andRI9 .. | .andRI23 .. | .andRI36 .. | .orRR .. | .orRI9 .. | .orRI23 .. | .orRI36 .. | .eorRR ..
  | .eorRI9 .. | .eorRI23 .. | .eorRI36 .. => exact aluLogic_touches ..
  | .aslRR .. | .aslSI6 .. | .rolRR .. | .rolSI6 .. | .lsrRR .. | .lsrSI6 .. | .rorRR .. | .rorSI6 .. =>
    exact shiftTo_touches ..
  | .ldRR .. | .ldRI9 .. | .ldRI23 .. | .ldRI36 .. => exact ⟨_, loadWordTo_eq .., s.loaded_touches ..⟩
  | .ldbRI36 .. => exact ⟨_, execLdbRI36_eq .., s.loaded_touches ..⟩
  | .stRR .. | .stRI9 .. | .stRI23 .. | .stRI36 .. =>
    exact ⟨_, storeWordFrom_eq .., (State.Touches.refl.putWord ..).advance _⟩
  | .stbRI36 .. => exact ⟨_, execStbRI36_eq .., (State.Touches.refl.putByte ..).advance _⟩
  | .jmpAbs46 _ | .jmpReg _ => exact ⟨_, rfl, State.Touches.refl.setPc _⟩
  | .jsrAbs46 addr => exact ⟨_, execJsrAbs46_eq addr s, (State.Touches.refl.pushed (List.mem_singleton_self _) _).setPc _⟩
  | .jsrReg ra => exact ⟨_, execJsrReg_eq ra s, (State.Touches.refl.pushed (List.mem_singleton_self _) _).setPc _⟩
  | .rts => exact ⟨_, execRts_eq s, (State.Touches.refl.setReg (List.mem_singleton_self _) _).setPc _⟩
  | .rti =>
    exact ⟨_, execRti_eq s,
      (((State.Touches.refl.setReg (List.mem_singleton_self sp) _).loadSr _).setReg (List.mem_singleton_self sp) _).setPc _⟩
  | .pfi | .nop => exact ⟨_, rfl, State.Touches.refl.advance 1⟩
  | .wai | .stp => exact ⟨_, rfl, (State.Touches.refl.advance 1).setRun (List.mem_singleton_self _)⟩
  | .rst => exact ⟨_, execRst_eq s, s.trapped_touches ..⟩
  | .nmi => exact ⟨_, execNmi_eq s, s.trapped_touches ..⟩
  | .irq => exact ⟨_, execIrq_eq s, s.trapped_touches ..⟩
  | .brk const4 => exact ⟨_, execBrk_eq const4 s, s.trapped_touches ..⟩
  | .beqD4 _ | .bneD4 _ | .bplD4 _ | .bmiD4 _ | .bvsD4 _ | .bvcD4 _ | .bcsD4 _ | .bccD4 _ | .braD4 _ | .beqD17 _
  | .bneD17 _ | .bplD17 _ | .bmiD17 _ | .bvsD17 _ | .bvcD17 _ | .bcsD17 _ | .bccD17 _ | .braD17 _ =>
    exact branchIf_touches ..
  | .php => exact ⟨_, execPhp_eq s, (State.Touches.refl.pushed (List.mem_singleton_self _) _).advance 1⟩
  | .plp =>
    exact ⟨_, execPlp_eq s,
      ((State.Touches.refl.setReg (List.mem_singleton_self sp) _).loadSr _).advance 1⟩
  | .psh ra => exact ⟨_, execPsh_eq ra s, ((State.Touches.refl.setReg (List.mem_singleton_self _) _).putWord _ _).advance 1⟩
  | .pop rt =>
    exact ⟨_, execPop_eq rt s, (((State.Touches.refl.setReg List.mem_cons_self _).setReg
      (List.mem_cons_of_mem rt (List.mem_singleton_self sp)) _).setFlags (Flags.sameBut_setNZ ..)).advance 1⟩
  | .sep _ | .rep _ => exact ⟨_, rfl, s.setMasked_touches ..⟩
  | .mvn | .mvp =>
    exact ⟨_, moveWord_eq s _, ((State.Touches.refl.putWord _ _).stepString (by decide) (by decide) (by decide) _ _).repeatOrLeave⟩
  | .mvnb | .mvpb =>
    exact ⟨_, moveByte_eq s _, ((State.Touches.refl.putByte _ _).stepString (by decide) (by decide) (by decide) _ _).repeatOrLeave⟩
  | .sts => exact ⟨_, execSts_eq s, ((State.Touches.refl.putWord _ _).stepString_zero (by decide) (by decide) _).repeatOrLeave⟩
  | .stsb => exact ⟨_, execStsb_eq s, ((State.Touches.refl.putByte _ _).stepString_zero (by decide) (by decide) _).repeatOrLeave⟩
  | .cmps =>
    exact ⟨_, execCmps_eq s, (State.Touches.refl.stepString (by decide) (by decide) (by decide) _ _).compareOrLeave _ _
      (Flags.sameBut_afterCmp _ _ _)⟩
  | .cmpsb =>
    exact ⟨_, execCmpsb_eq s, (State.Touches.refl.stepString (by decide) (by decide) (by decide) _ _).compareOrLeave _ _
      (Flags.sameBut_afterCmp _ _ _)⟩

/-- What an instruction touches, of the next state it answers. -/
theorem touches_of_exec {i : Instr} {s t : State} (h : exec i s = .next t) :
    s.Touches (flagsWritten i) (regsWritten i) (runsWritten i) t := by
  obtain ⟨t', h', htouches⟩ := exec_touches i s
  obtain rfl : t' = t := Host.Outcome.next.inj (h'.symm.trans h)
  exact htouches

/-- A running core stays running over every instruction but WAI and STP. -/
theorem runsWritten_eq_running {i : Instr} {u : RunState} (hwai : i ≠ .wai) (hstp : i ≠ .stp) (h : u ∈ runsWritten i) :
    u = .running := by
  unfold runsWritten at h
  split at h
  · exact absurd rfl hwai
  · exact absurd rfl hstp
  iterate 4 exact List.mem_singleton.mp h
  exact absurd h List.not_mem_nil

/-! ### What one step can do -/

/-- A next state of a fetched instruction is one its meaning answers. -/
theorem State.runFetched_cases {s t : State} {run : Instr → State → Result} (h : s.runFetched run = .next t) :
    ∃ i, run i { s with tick := s.tick + 1 } = .next t := by
  unfold State.runFetched at h
  split at h
  · rename_i stop _
    cases stop <;> simp [finish] at h
  · split at h
    · simp at h
    · exact ⟨_, h⟩

/-- The next states of one boundary (R236): a reset, a trap of an input, the end of a wait, nothing, or what the meaning of a
decoded instruction answers, each with the boundary's inputs used up. -/
theorem State.boundary_cases {s t : State} {run : Instr → State → Result} (h : s.boundary run = .next t) :
    (∃ start, t = { s with inputs := s.inputs.tail }.resetTo start) ∨
    (∃ vec, t = { s with inputs := s.inputs.tail }.trapped vec s.pc false) ∨
    (∃ u, t = { s with inputs := s.inputs.tail, run := u }) ∨
    ∃ i, run i { s with inputs := s.inputs.tail, tick := s.tick + 1 } = .next t := by
  simp only [State.boundary, State.resetEvent_eq, State.trapEntry_eq, finish_ok] at h
  split at h
  · exact .inl ⟨_, (Host.Outcome.next.inj h).symm⟩
  split at h
  · exact .inr (.inr (.inl ⟨_, (Host.Outcome.next.inj h).symm⟩))
  split at h
  · exact .inr (.inl ⟨_, (Host.Outcome.next.inj h).symm⟩)
  split at h
  · exact .inr (.inl ⟨_, (Host.Outcome.next.inj h).symm⟩)
  split at h
  · exact .inr (.inr (.inl ⟨_, (Host.Outcome.next.inj h).symm⟩))
  split at h
  · exact .inr (.inr (.inr (State.runFetched_cases h)))
  · exact .inr (.inr (.inl ⟨_, (Host.Outcome.next.inj h).symm⟩))

end Sys2Proof.Machine

namespace Sys2Proof.Claims

open Sys2Proof Sys2Proof.Machine

/-- Settles O54: the flags an instruction touches are those of the table. -/
theorem flagsWrittenByTheTable : Obligations.FlagsWrittenByTheTable := by
  unfold Obligations.FlagsWrittenByTheTable
  intro i s t h
  exact (touches_of_exec h).flags

/-- Settles O55: the registers an instruction touches are those of the table, and R0 reads as zero in every state. -/
theorem registersWrittenByTheTable : Obligations.RegistersWrittenByTheTable := by
  unfold Obligations.RegistersWrittenByTheTable
  intro i s t h
  exact ⟨t.reg_zero, (touches_of_exec h).regs⟩

/-- Settles O58: a reset, an idle boundary and the use of an input leave memory, registers and notes alone; traps and instructions
keep the invariant operation by operation. -/
theorem everyStepKeepsTheInvariant : Obligations.EveryStepKeepsTheInvariant := by
  unfold Obligations.EveryStepKeepsTheInvariant
  intro s t hs h
  have hs1 : State.Inv { s with inputs := s.inputs.tail } := hs.congr rfl rfl rfl
  rcases State.boundary_cases h with ⟨start, rfl⟩ | ⟨vec, rfl⟩ | ⟨u, rfl⟩ | ⟨i, hexec⟩
  · exact hs.congr rfl rfl rfl
  · exact (State.trapped_touches ..).inv hs1
  · exact hs.congr rfl rfl rfl
  · exact (touches_of_exec hexec).inv (hs.congr rfl rfl rfl)

/-- Settles O57: the run state stays or becomes one of runsWritten, which is `running` but for WAI and STP. -/
theorem runStateChangesOnlyByWaiAndStp : Obligations.RunStateChangesOnlyByWaiAndStp := by
  unfold Obligations.RunStateChangesOnlyByWaiAndStp
  intro i s t h hwai hstp hrunning
  rcases (touches_of_exec h).run with hsame | hwritten
  · exact hsame.trans hrunning
  · exact runsWritten_eq_running hwai hstp hwritten

/-- Settles O59: after reset memory is empty and the registers are 0. -/
theorem resetMeetsTheInvariant : Obligations.ResetMeetsTheInvariant := by
  unfold Obligations.ResetMeetsTheInvariant
  exact ⟨rfl, rfl, fun c hc => absurd hc List.not_mem_nil⟩

end Sys2Proof.Claims
end

section
/-! The status register and the results of the arithmetic, logic and shift instructions (10_state.md R26 to R28, 40_alu.md, 41_shift.md):
each flag by the integers it is about, each operation's outcome once, and from that the instructions in all their forms. -/

namespace Sys2Proof.Machine

/-! ### Frames of a register write -/

theorem State.setReg_wroteReg (s : State) (r : Reg) (v : Word) : WroteReg s (s.setReg r v) r v :=
  ⟨State.reg_zero _, s.setReg_reg_same r v, fun q hq => s.setReg_reg_ne r q v hq⟩

theorem State.setReg_sameMemory (s : State) (r : Reg) (v : Word) : SameMemory s (s.setReg r v) :=
  ⟨s.setReg_byteAt r v, s.setReg_overwritten r v⟩

theorem State.setReg_sameRun (s : State) (r : Reg) (v : Word) : SameRun s (s.setReg r v) :=
  ⟨s.setReg_run r v, s.setReg_inputs r v, s.setReg_tick r v⟩

/-! ### The flags as facts about integers (R28) -/

/-- `c` of an addition: the sum of two words is below 2^53, so its bit 52 says that it reaches 2^52. -/
theorem addCarry_eq (a b : Word) : addCarry a b = decide (2 ^ 52 ≤ a.toNat + b.toNat) := by
  rw [addCarry, Nat.testBit_eq_decide_div_mod_eq, decide_eq_decide]
  omega

/-- `c` of a subtraction under the default sense: a + ~b + 1 is a - b + 2^52, which reaches 2^52 when there is no borrow. -/
theorem subCarry_noBorrow_eq (a b : Word) : subCarry .noBorrow a b = decide (b.toNat ≤ a.toNat) := by
  have hcarry : subCarry .noBorrow a b = (a.toNat + (~~~b).toNat + 1).testBit 52 := rfl
  rw [hcarry, Nat.testBit_eq_decide_div_mod_eq, decide_eq_decide, BitVec.toNat_not]
  omega

/-- `v` of an addition: operands of one sign with a result of the other are those whose signed sum leaves the range. -/
theorem addOverflow_eq (a b : Word) :
    addOverflow a b = decide (a.toInt + b.toInt < -2 ^ 51 ∨ 2 ^ 51 ≤ a.toInt + b.toInt) := by
  have hmsb : addOverflow a b = a.saddOverflow b := (BitVec.saddOverflow_eq a b).symm
  rw [hmsb, BitVec.saddOverflow, Bool.or_comm, ← Bool.decide_or]

/-- `v` of a subtraction: operands of different signs with a result not of the first one's sign. -/
theorem subOverflow_eq (a b : Word) :
    subOverflow a b = decide (a.toInt - b.toInt < -2 ^ 51 ∨ 2 ^ 51 ≤ a.toInt - b.toInt) := by
  have hmsb : subOverflow a b = a.ssubOverflow b := by
    have hbits : subOverflow a b = (a.msb != b.msb && (a - b).msb != a.msb) := rfl
    rw [hbits, BitVec.ssubOverflow_eq]
    have hbool : ∀ x y z : Bool, (x != y && z != x) = (!x && y && z || x && !y && !z) := by decide
    exact hbool ..
  rw [hmsb, BitVec.ssubOverflow, Bool.or_comm, ← Bool.decide_or]

end Sys2Proof.Machine

namespace Sys2Proof.Claims

open Sys2Proof Sys2Proof.Machine

theorem afterAdd_eq (f : Flags) (a b : Word) : f.afterAdd a b = sumFlags f a b := by
  rw [Flags.afterAdd, addCarry_eq, addOverflow_eq]; rfl

theorem afterSub_eq (f : Flags) (a b : Word) : f.afterSub a b = differenceFlags f a b := by
  rw [Flags.afterSub, subOverflow_eq]
  exact congrArg (fun c => nz { f with c := c, v := _ } (a - b)) (subCarry_noBorrow_eq a b)

theorem afterCmp_eq (f : Flags) (a b : Word) : f.afterCmp a b = compareFlags f a b :=
  congrArg (fun c => nz { f with c := c } (a - b)) (subCarry_noBorrow_eq a b)

/-! ### The outcome of each shared operation -/

/-- A register write, the flags and the end of an instruction: nothing else changes. -/
theorem wrote_next (s : State) (rt : Reg) (r : Word) (f : Flags) (len : Nat) :
    Wrote s (.next (((s.setReg rt r).setFlags f).advance len)) rt r f (BitVec.ofNat 52 len) :=
  ⟨_, rfl, s.setReg_wroteReg rt r, rfl, congrArg (· + BitVec.ofNat 52 len) (s.setReg_pc rt r),
    s.setReg_sameMemory rt r, s.setReg_sameRun rt r⟩

/-- The flags and the end of an instruction: no register, and nothing else. -/
theorem onlyFlagsAndPc_next (s : State) (f : Flags) (len : Nat) :
    OnlyFlagsAndPc s (.next ((s.setFlags f).advance len)) f (s.pc + BitVec.ofNat 52 len) :=
  ⟨_, rfl, fun _ => rfl, rfl, rfl, ⟨fun _ => rfl, rfl⟩, rfl, rfl, rfl⟩

theorem aluAdd_wrote (s : State) (rt : Reg) (a b : Word) (len : Nat) :
    Wrote s (aluAdd s rt a b len) rt (a + b) (sumFlags s.flags a b) (BitVec.ofNat 52 len) := by
  rw [aluAdd, afterAdd_eq]
  exact wrote_next ..

theorem aluSub_wrote (s : State) (rt : Reg) (a b : Word) (len : Nat) :
    Wrote s (aluSub s rt a b len) rt (a - b) (differenceFlags s.flags a b) (BitVec.ofNat 52 len) := by
  rw [aluSub, afterSub_eq]
  exact wrote_next ..

theorem aluCmp_onlyFlagsAndPc (s : State) (a b : Word) (len : Nat) :
    OnlyFlagsAndPc s (aluCmp s a b len) (compareFlags s.flags a b) (s.pc + BitVec.ofNat 52 len) := by
  rw [aluCmp, afterCmp_eq]
  exact onlyFlagsAndPc_next ..

theorem aluBit_onlyFlagsAndPc (s : State) (a b : Word) (len : Nat) :
    OnlyFlagsAndPc s (aluBit s a b len) (bitTestFlags s.flags (a &&& b)) (s.pc + BitVec.ofNat 52 len) :=
  onlyFlagsAndPc_next ..

theorem aluLogic_wrote (s : State) (rt : Reg) (r : Word) (len : Nat) :
    Wrote s (aluLogic s rt r len) rt r (nz s.flags r) (BitVec.ofNat 52 len) :=
  wrote_next ..

/-! ### ADD, SUB, CMP, BIT, AND, OR, EOR

Each form is its operation over x[Ra] and x[Rb] or the sign-extended immediate (IMM_EXT's default), by exec's arm. -/

/-- Settles O20. -/
theorem addResult : Obligations.AddResult := by
  unfold Obligations.AddResult
  intro s rt ra rb i9 i23 i36
  exact ⟨aluAdd_wrote .., aluAdd_wrote .., aluAdd_wrote .., aluAdd_wrote ..⟩

/-- Settles O21. -/
theorem subResult : Obligations.SubResult := by
  unfold Obligations.SubResult
  intro s rt ra rb i9 i23 i36
  exact ⟨aluSub_wrote .., aluSub_wrote .., aluSub_wrote .., aluSub_wrote ..⟩

/-- Settles O22. -/
theorem cmpResult : Obligations.CmpResult := by
  unfold Obligations.CmpResult
  intro s ra rb i9 i23 i36
  exact ⟨aluCmp_onlyFlagsAndPc .., aluCmp_onlyFlagsAndPc .., aluCmp_onlyFlagsAndPc .., aluCmp_onlyFlagsAndPc ..⟩

/-- Settles O23. -/
theorem bitResult : Obligations.BitResult := by
  unfold Obligations.BitResult
  intro s ra rb i9 i23 i36
  exact ⟨aluBit_onlyFlagsAndPc .., aluBit_onlyFlagsAndPc .., aluBit_onlyFlagsAndPc .., aluBit_onlyFlagsAndPc ..⟩

/-- Settles O24: AND, OR and EOR, four forms each. -/
theorem logicResults : Obligations.LogicResults := by
  unfold Obligations.LogicResults
  intro s rt ra rb i9 i23 i36
  exact ⟨aluLogic_wrote .., aluLogic_wrote .., aluLogic_wrote .., aluLogic_wrote ..,
    aluLogic_wrote .., aluLogic_wrote .., aluLogic_wrote .., aluLogic_wrote ..,
    aluLogic_wrote .., aluLogic_wrote .., aluLogic_wrote .., aluLogic_wrote ..⟩

/-! ### ASL, ROL, LSR, ROR by 0 to 51 -/

/-- A shift by a count below 52 (R141, R142): the rule's result, and for `c` the last bit out. -/
theorem shiftTo_wrote (s : State) (op : ShiftOp) (rt : Reg) (a count r : Word) (n : Nat) (hcount : count.toNat = n) (hn : n < 52)
    (hr : shiftResult op a n = r) :
    Wrote s (shiftTo s op rt a count) rt r (shiftFlags s.flags n (lastBitOut op a n) r) 2#52 := by
  have hshifted : s.shifted op a count = r := by rw [State.shifted, hcount, if_pos hn, hr]
  have hcarry : s.shiftCarry op a count = if n = 0 then s.flags.c else lastBitOut op a n := by
    rw [← hcount] at hn ⊢
    exact congrArg (fun x => if count.toNat = 0 then s.flags.c else x) (if_pos hn)
  rw [shiftTo, hshifted, hcarry]
  exact wrote_next s rt r _ 2

/-- Imm6 is the count, unsigned (R94). -/
theorem immCount_toNat (imm : BitVec 6) : (immCount imm).toNat = imm.toNat :=
  BitVec.toNat_setWidth_of_le (by decide)

/-- A word of a number modulo 2^52. -/
theorem ofNat_mod (x : Nat) : BitVec.ofNat 52 (x % 2 ^ 52) = BitVec.ofNat 52 x :=
  BitVec.eq_of_toNat_eq (by rw [BitVec.toNat_ofNat, BitVec.toNat_ofNat, Nat.mod_mod])

/-- ASL multiplies by a power of two, modulo 2^52 (R143). -/
theorem shiftResult_asl (a : Word) (n : Nat) : shiftResult .asl a n = BitVec.ofNat 52 (a.toNat * 2 ^ n) := by
  apply BitVec.eq_of_toNat_eq
  simp only [shiftResult, BitVec.toNat_shiftLeft, Nat.shiftLeft_eq, BitVec.toNat_ofNat]

/-- LSR divides by a power of two (R145). -/
theorem shiftResult_lsr (a : Word) (n : Nat) : shiftResult .lsr a n = BitVec.ofNat 52 (a.toNat / 2 ^ n) := by
  apply BitVec.eq_of_toNat_eq
  have hlt : a.toNat / 2 ^ n < 2 ^ 52 := Nat.lt_of_le_of_lt (Nat.div_le_self ..) a.isLt
  simp only [shiftResult, BitVec.toNat_ushiftRight, Nat.shiftRight_eq_div_pow, BitVec.toNat_ofNat, Nat.mod_eq_of_lt hlt]

/-- ROL joins the bits moved up and those that come in from the top (R144). -/
theorem shiftResult_rol (a : Word) (n : Nat) :
    shiftResult .rol a n =
      if n = 0 then a else BitVec.ofNat 52 (a.toNat * 2 ^ n % 2 ^ 52 ||| a.toNat / 2 ^ (52 - n)) := by
  rw [BitVec.ofNat_or, ofNat_mod, ← shiftResult_asl, ← shiftResult_lsr]
  rfl

/-- ROR joins the bits moved down and those that come in from the bottom (R146). -/
theorem shiftResult_ror (a : Word) (n : Nat) :
    shiftResult .ror a n =
      if n = 0 then a else BitVec.ofNat 52 (a.toNat / 2 ^ n ||| a.toNat * 2 ^ (52 - n) % 2 ^ 52) := by
  rw [BitVec.ofNat_or, ofNat_mod, ← shiftResult_asl, ← shiftResult_lsr]
  rfl

/-! Both forms of each shift take the count's value below 52: the whole of x[Rb], or Imm6. -/

/-- Settles O25. -/
theorem aslResult : Obligations.AslResult := by
  unfold Obligations.AslResult
  intro s rt ra rb i6
  exact ⟨fun h => shiftTo_wrote s .asl rt _ _ _ _ rfl h (shiftResult_asl ..),
    fun h => shiftTo_wrote s .asl rt _ _ _ _ (immCount_toNat i6) h (shiftResult_asl ..)⟩

/-- Settles O26. -/
theorem rolResult : Obligations.RolResult := by
  unfold Obligations.RolResult
  intro s rt ra rb i6
  exact ⟨fun h => shiftTo_wrote s .rol rt _ _ _ _ rfl h (shiftResult_rol ..),
    fun h => shiftTo_wrote s .rol rt _ _ _ _ (immCount_toNat i6) h (shiftResult_rol ..)⟩

/-- Settles O27. -/
theorem lsrResult : Obligations.LsrResult := by
  unfold Obligations.LsrResult
  intro s rt ra rb i6
  exact ⟨fun h => shiftTo_wrote s .lsr rt _ _ _ _ rfl h (shiftResult_lsr ..),
    fun h => shiftTo_wrote s .lsr rt _ _ _ _ (immCount_toNat i6) h (shiftResult_lsr ..)⟩

/-- Settles O28. -/
theorem rorResult : Obligations.RorResult := by
  unfold Obligations.RorResult
  intro s rt ra rb i6
  exact ⟨fun h => shiftTo_wrote s .ror rt _ _ _ _ rfl h (shiftResult_ror ..),
    fun h => shiftTo_wrote s .ror rt _ _ _ _ (immCount_toNat i6) h (shiftResult_ror ..)⟩

end Sys2Proof.Claims
end

section
/-! Loads, stores and the stack (42_load_store.md, 43_stack.md), RTI (R175), and where a machine begins: after reset (R33) and by a start
at a given address (R251). -/

namespace Sys2Proof.Machine

/-! ### Memory after a store, at any address (R52, R54) -/

/-- A stored word stands at its address, and a byte outside its four, which differs in address from each of them, is as before. -/
theorem State.putWord_storedWord (s : State) (a v : Word) (h : s.mem.wf) : StoredWord s (s.putWord a v) a v := by
  refine ⟨s.putWord_wordAt a v h, fun b hb => ?_⟩
  simp only [Outside] at hb
  exact s.putWord_byteAt_ne a v b h (by bv_omega) (by bv_omega) (by bv_omega) (by bv_omega)

theorem State.putByte_storedByte (s : State) (a : Word) (v : Byte) (h : s.mem.wf) : StoredByte s (s.putByte a v) a v := by
  refine ⟨(s.putByte_byteAt a a v h).trans (if_pos rfl), fun b hb => ?_⟩
  simp only [Outside] at hb
  exact (s.putByte_byteAt a b v h).trans (if_neg (by bv_omega))

/-- A push stores its word at the lowered pointer (R160). -/
theorem State.pushed_storedWord (s : State) (v : Word) (h : s.mem.wf) :
    StoredWord s (s.pushed v) (s.reg sp - 4#52) v := by
  have hwf : (s.setReg sp (s.reg sp - 4#52)).mem.wf := (s.setReg_mem ..).symm ▸ h
  obtain ⟨hword, hout⟩ := State.putWord_storedWord _ (s.reg sp - 4#52) v hwf
  exact ⟨hword, fun b hb => (hout b hb).trans (s.setReg_byteAt ..)⟩

/-- The last of two writes to one register. -/
theorem WroteReg.setReg {s t : State} {r : Reg} {v : Word} (h : WroteReg s t r v) (w : Word) : WroteReg s (t.setReg r w) r w := by
  obtain ⟨-, -, hother⟩ := h
  exact ⟨State.reg_zero _, t.setReg_reg_same r w, fun q hq => (t.setReg_reg_ne r q w hq).trans (hother q hq)⟩

/-! ### The image of SR under the default SR_LAYOUT (R29) -/

/-- The image is the sum of the flags' bits. -/
theorem Flags.image_eq (f : Flags) : f.image config.srLayout = imageOf f := by
  have hall : ∀ c v n z i u b d, Flags.image config.srLayout ⟨c, v, n, z, i, u, b, d⟩ = imageOf ⟨c, v, n, z, i, u, b, d⟩ := by
    decide
  exact hall ..

end Sys2Proof.Machine

namespace Sys2Proof.Claims

open Sys2Proof Sys2Proof.Machine

/-! ### LD, LDB, ST, STB -/

theorem loadWordTo_wrote (s : State) (rt : Reg) (ea : Word) (len : Nat) :
    Wrote s (loadWordTo s rt ea len) rt (s.wordAt ea) (nz s.flags (s.wordAt ea)) (BitVec.ofNat 52 len) := by
  rw [loadWordTo_eq]
  exact wrote_next ..

theorem storeWordFrom_storeDone (s : State) (rs : Reg) (ea : Word) (len : Nat) (h : s.mem.wf) :
    StoreDone s (storeWordFrom s rs ea len) ea (s.reg rs) (BitVec.ofNat 52 len) :=
  ⟨_, storeWordFrom_eq .., s.putWord_storedWord ea (s.reg rs) h, fun _ => rfl, rfl, rfl, rfl, rfl, rfl⟩

/-- Settles O30: each form loads at the effective address that its arm computes (R150). -/
theorem ldResult : Obligations.LdResult := by
  unfold Obligations.LdResult
  intro s rt ra rb i9 i23 i36
  exact ⟨loadWordTo_wrote .., loadWordTo_wrote .., loadWordTo_wrote .., loadWordTo_wrote ..⟩

/-- Settles O31. -/
theorem ldbResult : Obligations.LdbResult := by
  unfold Obligations.LdbResult
  intro s rt ra i36
  exact wrote_next s rt _ _ 4

/-- Settles O32: each form stores at the effective address that its arm computes (R150). -/
theorem stResult : Obligations.StResult := by
  unfold Obligations.StResult
  intro s rs ra rb i9 i23 i36 h
  exact ⟨storeWordFrom_storeDone s rs _ 2 h, storeWordFrom_storeDone s rs _ 2 h, storeWordFrom_storeDone s rs _ 3 h,
    storeWordFrom_storeDone s rs _ 4 h⟩

/-- The low 13 bits of a register are its value modulo 2^13. -/
theorem lowByte_eq (v : Word) : lowByte v = BitVec.ofNat 13 v.toNat := by
  rw [BitVec.ofNat_toNat]
  rfl

/-- Settles O33. -/
theorem stbResult : Obligations.StbResult := by
  unfold Obligations.StbResult
  intro s rs ra i36 h
  refine ⟨_, execStbRI36_eq .., ?_, fun _ => rfl, rfl, rfl, rfl, rfl, rfl⟩
  exact lowByte_eq (s.reg rs) ▸ s.putByte_storedByte _ _ h

/-! ### PHP, PLP, POP, RTI -/

/-- A push and a new pc: nothing else changes. -/
theorem pushDone_next (s : State) (v target : Word) (h : s.mem.wf) :
    PushDone s (.next ((s.pushed v).setPc target)) v target :=
  ⟨_, rfl, s.pushed_storedWord v h, s.setReg_wroteReg sp _, s.pushed_flags v, rfl, s.pushed_run v, s.pushed_inputs v, s.pushed_tick v⟩

/-- Settles O35: PHP is a push of the image, PLP a pull into the flags. -/
theorem phpAndPlpResult : Obligations.PhpAndPlpResult := by
  unfold Obligations.PhpAndPlpResult
  intro s
  constructor
  · intro h
    have himage : s.srWord = imageOf s.flags := s.flags.image_eq
    have hpc : (s.pushed (imageOf s.flags)).npc 1 = s.pc + 1#52 := congrArg (· + 1#52) (s.pushed_pc _)
    rw [exec, execPhp_eq, himage, State.advance, hpc]
    exact pushDone_next s _ _ h
  · rw [exec, execPlp_eq]
    exact wrote_next s sp _ _ 1

/-- R31 after POP: the pull's 4 is added to what the write to Rt left there (R164; log 22). -/
theorem pop_sp (s : State) (rt : Reg) (w : Word) :
    ((s.setReg rt w).setReg sp ((s.setReg rt w).reg sp + 4#52)).reg sp = if rt = sp then w + 4#52 else s.reg sp + 4#52 := by
  rw [State.setReg_sp]
  by_cases hrt : rt = sp
  · rw [hrt, State.setReg_sp, if_pos rfl]
  · rw [State.setReg_reg_ne _ _ _ _ (Ne.symm hrt), if_neg hrt]

/-- Settles O37. -/
theorem popResult : Obligations.PopResult := by
  unfold Obligations.PopResult
  intro s rt
  refine ⟨_, execPop_eq rt s, State.reg_zero _, fun hzero hsp => ?_, pop_sp .., fun r hrt hsp => ?_, rfl, ?_, ?_, ?_⟩
  · exact (State.setReg_reg_ne _ _ _ _ hsp).trans (s.setReg_reg_same rt _ hzero)
  · exact (State.setReg_reg_ne _ _ _ _ hsp).trans (s.setReg_reg_ne rt r _ hrt)
  · simp [State.npc]
  · exact ⟨fun a => by simp, by simp⟩
  · exact ⟨by simp, by simp, by simp⟩

/-- Settles O41: two pulls, the first into SR and the second into pc. -/
theorem rtiResult : Obligations.RtiResult := by
  unfold Obligations.RtiResult
  intro s
  have hsp : s.reg sp + 4#52 + 4#52 = s.reg sp + 8#52 := BitVec.add_assoc ..
  refine ⟨_, execRti_eq s, ?_, ?_, rfl, ?_, ?_⟩
  · rw [hsp]
    exact (s.setReg_wroteReg sp (s.reg sp + 4#52)).setReg _
  · simp only [State.setPc_flags, State.setReg_flags, State.loadSr_flags]
    rfl
  · exact ⟨fun a => by simp, by simp⟩
  · exact ⟨by simp, by simp, by simp⟩

/-! ### Reset and start -/

/-- Settles O11. -/
theorem stateAfterReset : Obligations.StateAfterReset := by
  unfold Obligations.StateAfterReset
  exact ⟨rfl, rfl, rfl, rfl, rfl⟩

/-- After a start nothing is noted as overwritten, so a fetch sees memory (R57, R64). -/
theorem start_fetchView (s : State) (program : List (Word × List Byte)) (entry : Word) (given : List (Reg × Word)) (a : Word) :
    (s.start program entry given).fetchView a = (s.start program entry given).byteAt a :=
  State.fetchView_eq _ a rfl

/-- Byte k of the last segment stands at its address (R52): no segment lies over it. -/
theorem start_lastSegment (s : State) (program : List (Word × List Byte)) (base : Word) (bytes : List Byte) (entry : Word)
    (given : List (Reg × Word)) (h : s.mem.wf) (hlen : bytes.length ≤ 2 ^ 52) (k : Nat) (v : Byte) (hk : bytes[k]? = some v) :
    (s.start (program ++ [(base, bytes)]) entry given).byteAt (base + BitVec.ofNat 52 k) = v := by
  obtain ⟨hlt, rfl⟩ := List.getElem?_eq_some_iff.mp hk
  rw [State.start_byteAt, State.placeProgram_append]
  exact State.placeBytes_inside _ base bytes (s.placeProgram_wf program h) hlen k hlt

/-- Settles O60: the fields are those of start_eq, memory that of the placed program, the registers those given. -/
theorem startWithoutAResetVector : Obligations.StartWithoutAResetVector := by
  unfold Obligations.StartWithoutAResetVector
  intro s program base bytes entry given h
  refine ⟨?_, ?_, ?_, ?_, ?_, start_fetchView s _ entry given, start_lastSegment s program base bytes entry given h,
    fun a ha => ?_, State.reg_zero _, fun hnodup r v hr hmem => ?_, fun r hr => ?_⟩
  case refine_1 | refine_2 | refine_3 | refine_4 | refine_5 => rw [State.start_eq]
  · exact (s.start_byteAt ..).trans (s.placeProgram_outside _ a h ha)
  · exact (s.start_reg ..).trans (s.giveRegs_reg given hnodup r v hr hmem)
  · exact (s.start_reg ..).trans (s.giveRegs_reg_ne given r hr)

end Sys2Proof.Claims
end

section
/-! Memory (20_memory.md): the access primitives of R53, R54 and R160, the fetch (R57, R64), and over every instruction the bytes it
stores (R55) with what is noted of them (log 15). -/

namespace Sys2Proof.Laws

open EncodedLength in
/-- The lemmas of PerInstr together: every instruction's opcode has its length (R81), and the encoding lies within it. -/
theorem encodedLength : (i : Instr) → EncodedLength.Statement i
  | .addRR .. => addRR .. | .addRI9 .. => addRI9 .. | .addRI23 .. => addRI23 .. | .addRI36 .. => addRI36 ..
  | .cmpRR .. => cmpRR .. | .cmpRI9 .. => cmpRI9 .. | .cmpRI23 .. => cmpRI23 .. | .cmpRI36 .. => cmpRI36 ..
  | .subRR .. => subRR .. | .subRI9 .. => subRI9 .. | .subRI23 .. => subRI23 .. | .subRI36 .. => subRI36 ..
  | .bitRR .. => bitRR .. | .bitRI9 .. => bitRI9 .. | .bitRI23 .. => bitRI23 .. | .bitRI36 .. => bitRI36 ..
  | .andRR .. => andRR .. | .andRI9 .. => andRI9 .. | .andRI23 .. => andRI23 .. | .andRI36 .. => andRI36 ..
  | .orRR .. => orRR .. | .orRI9 .. => orRI9 .. | .orRI23 .. => orRI23 .. | .orRI36 .. => orRI36 .. | .eorRR .. => eorRR ..
  | .eorRI9 .. => eorRI9 .. | .eorRI23 .. => eorRI23 .. | .eorRI36 .. => eorRI36 .. | .aslRR .. => aslRR ..
  | .aslSI6 .. => aslSI6 .. | .rolRR .. => rolRR .. | .rolSI6 .. => rolSI6 .. | .lsrRR .. => lsrRR .. | .lsrSI6 .. => lsrSI6 ..
  | .rorRR .. => rorRR .. | .rorSI6 .. => rorSI6 .. | .ldRR .. => ldRR .. | .ldRI9 .. => ldRI9 .. | .ldRI23 .. => ldRI23 ..
  | .ldRI36 .. => ldRI36 .. | .ldbRI36 .. => ldbRI36 .. | .stRR .. => stRR .. | .stRI9 .. => stRI9 .. | .stRI23 .. => stRI23 ..
  | .stRI36 .. => stRI36 .. | .stbRI36 .. => stbRI36 .. | .jmpAbs46 .. => jmpAbs46 .. | .jsrAbs46 .. => jsrAbs46 ..
  | .jmpReg .. => jmpReg .. | .jsrReg .. => jsrReg .. | .rts => rts | .rti => rti | .pfi => pfi | .wai => wai | .stp => stp
  | .nop => nop | .rst => rst | .nmi => nmi | .irq => irq | .brk .. => brk .. | .beqD4 .. => beqD4 .. | .bneD4 .. => bneD4 ..
  | .bplD4 .. => bplD4 .. | .bmiD4 .. => bmiD4 .. | .bvsD4 .. => bvsD4 .. | .bvcD4 .. => bvcD4 .. | .bcsD4 .. => bcsD4 ..
  | .bccD4 .. => bccD4 .. | .beqD17 .. => beqD17 .. | .bneD17 .. => bneD17 .. | .bplD17 .. => bplD17 ..
  | .bmiD17 .. => bmiD17 .. | .bvsD17 .. => bvsD17 .. | .bvcD17 .. => bvcD17 .. | .bcsD17 .. => bcsD17 ..
  | .bccD17 .. => bccD17 .. | .braD4 .. => braD4 .. | .braD17 .. => braD17 .. | .php => php | .plp => plp | .psh .. => psh ..
  | .pop .. => pop .. | .sep .. => sep .. | .rep .. => rep .. | .mvnb => mvnb | .mvpb => mvpb | .stsb => stsb | .cmpsb => cmpsb
  | .mvn => mvn | .mvp => mvp | .sts => sts | .cmps => cmps

end Sys2Proof.Laws

namespace Sys2Proof.Machine

/-! ### Bytes of a word (R51) -/

/-- A byte below the bits of another vector, as a number. -/
theorem append_byte_toNat {n : Nat} (x : BitVec n) (b : Byte) : (x ++ b).toNat = x.toNat * 2 ^ 13 + b.toNat := by
  rw [BitVec.toNat_append, ← Nat.shiftLeft_add_eq_or_of_lt b.isLt, Nat.shiftLeft_eq]

/-- Four bytes joined, as a number. -/
theorem wordOfBytes_toNat (b0 b1 b2 b3 : Byte) :
    (wordOfBytes b0 b1 b2 b3).toNat = b0.toNat + b1.toNat * 2 ^ 13 + b2.toNat * 2 ^ 26 + b3.toNat * 2 ^ 39 := by
  simp only [wordOfBytes, append_byte_toNat]
  omega

theorem byteOfWord_toNat (v : Word) (k : Nat) : (byteOfWord v k).toNat = v.toNat / 2 ^ (13 * k) % 2 ^ 13 := by
  rw [byteOfWord, BitVec.extractLsb'_toNat, Nat.shiftRight_eq_div_pow]

/-- Byte k of a word stored stands at its address plus k (R54). -/
theorem State.putWord_byteAt_add (s : State) (a v : Word) (h : s.mem.wf) (k : Nat) (hk : k < 4) :
    (s.putWord a v).byteAt (a + BitVec.ofNat 52 k) = byteOfWord v k := by
  rw [State.putWord_byteAt _ _ _ _ h]
  match k with
  | 0 => rw [if_neg (by bv_omega), if_neg (by bv_omega), if_neg (by bv_omega), if_pos (by bv_omega)]
  | 1 => rw [if_neg (by bv_omega), if_neg (by bv_omega), if_pos rfl]
  | 2 => rw [if_neg (by bv_omega), if_pos rfl]
  | 3 => rw [if_pos rfl]

/-! ### The fetch (R57, R64) -/

/-- The bytes a fetch may see besides memory's are those noted at the address (log 15). -/
theorem State.mem_oldBytes (s : State) (a : Word) (b : Byte) : b ∈ s.oldBytes a ↔ (a.toNat, b) ∈ s.overwritten := by
  simp [State.oldBytes]

/-- Whatever the free choice, its place is reduced to one in the list of bytes held. -/
theorem State.fetchView_mem (s : State) (a : Word) : s.fetchView a ∈ s.byteAt a :: s.oldBytes a := by
  unfold State.fetchView
  split
  · exact List.mem_cons_self
  · next old olds hold =>
    have hplace : Config.freeFetchChoice s.tick a % (s.byteAt a :: old :: olds).length < (s.byteAt a :: old :: olds).length :=
      Nat.mod_lt _ (Nat.succ_pos _)
    rw [hold, List.getD_eq_getElem _ _ hplace]
    exact List.getElem_mem hplace

/-- A fetch of n bytes answers what it sees at each address in turn. -/
theorem State.fetchFrom_eq (s : State) (bytes : List Byte) (a : Word)
    (h : ∀ k (hk : k < bytes.length), s.fetchView (a + BitVec.ofNat 52 k) = bytes[k]) :
    s.fetchFrom bytes.length a = .ok bytes := by
  induction bytes generalizing a with
  | nil => rfl
  | cons b bs ih =>
    have hfirst : s.fetchView a = b := by simpa using h 0 (Nat.succ_pos _)
    have hrest : s.fetchFrom bs.length (a + 1#52) = .ok bs := by
      refine ih (a + 1#52) fun k hk => ?_
      have hadd : a + 1#52 + BitVec.ofNat 52 k = a + BitVec.ofNat 52 (k + 1) := by bv_omega
      rw [hadd]
      exact h (k + 1) (Nat.succ_lt_succ hk)
    rw [List.length_cons, State.fetchFrom, hrest, hfirst]
    rfl

/-- The fetch reads a run of bytes whose first has an opcode of the run's length (R103). -/
theorem State.fetchBytes_eq (s : State) (b : Byte) (bs : List Byte)
    (hlen : opcodeLength (opcodeOfByte b) = some (b :: bs).length)
    (h : ∀ k (hk : k < (b :: bs).length), s.fetchView (s.pc + BitVec.ofNat 52 k) = (b :: bs)[k]) :
    s.fetchBytes = .ok (b :: bs) := by
  have hfirst : s.fetchView s.pc = b := by simpa using h 0 (Nat.succ_pos _)
  have hfetch : s.fetchBytes = s.fetchFrom ((opcodeLength (opcodeOfByte (s.fetchView s.pc))).getD 1) s.pc := rfl
  rw [hfetch, hfirst, hlen, Option.getD_some]
  exact s.fetchFrom_eq (b :: bs) s.pc h

theorem length_ne_zero (i : Instr) : i.length ≠ 0 := by
  cases i <;> exact Nat.succ_ne_zero _

/-- An instruction's bytes begin with one that holds its opcode, which gives their number (R80, R81). -/
theorem encode_eq_cons (i : Instr) : ∃ b bs, encode i = b :: bs ∧ opcodeLength (opcodeOfByte b) = some (b :: bs).length := by
  obtain ⟨hop, -⟩ := Laws.encodedLength i
  obtain ⟨n, hn⟩ : ∃ n, i.length = n + 1 := Nat.exists_eq_succ_of_ne_zero (length_ne_zero i)
  refine ⟨_, splitBytes n (encodeIns i >>> 13), by rw [encode, hn, splitBytes], ?_⟩
  rw [opcodeOfByte_first, hop, hn, List.length_cons, splitBytes_length]

/-! ### Where two states hold the same memory -/

/-- t has the memory and the notes of s. -/
def State.SharesMemory (s t : State) : Prop := t.mem = s.mem ∧ t.overwritten = s.overwritten

namespace State.SharesMemory

variable {s t : State}

theorem refl : SharesMemory s s := ⟨rfl, rfl⟩

theorem setReg (h : SharesMemory s t) (r : Reg) (v : Word) : SharesMemory s (t.setReg r v) :=
  ⟨(t.setReg_mem r v).trans h.1, (t.setReg_overwritten r v).trans h.2⟩

theorem setFlags (h : SharesMemory s t) (f : Flags) : SharesMemory s (t.setFlags f) := h

theorem loadSr (h : SharesMemory s t) (w : Word) : SharesMemory s (t.loadSr w) := h

theorem setPc (h : SharesMemory s t) (pc : Word) : SharesMemory s (t.setPc pc) := h

theorem advance (h : SharesMemory s t) (len : Nat) : SharesMemory s (t.advance len) := h

theorem setRun (h : SharesMemory s t) (u : RunState) : SharesMemory s { t with run := u } := h

theorem stepString (h : SharesMemory s t) (dx dy : Word) : SharesMemory s (t.stepString dx dy) :=
  ((h.setReg _ _).setReg _ _).setReg _ _

theorem repeatOrLeave (h : SharesMemory s t) : SharesMemory s t.repeatOrLeave := by
  unfold State.repeatOrLeave
  split <;> exact h

theorem compareOrLeave (h : SharesMemory s t) (t1 t2 : Word) : SharesMemory s (t.compareOrLeave t1 t2) := by
  unfold State.compareOrLeave
  split
  · exact h
  · split <;> exact h

/-- The same store made in two states that share memory: what it notes depends on memory and notes alone (log 15). -/
theorem putByte (h : SharesMemory s t) (a : Word) (v : Byte) : SharesMemory (s.putByte a v) (t.putByte a v) := by
  cases s
  cases t
  obtain ⟨rfl, rfl⟩ := h
  exact ⟨rfl, rfl⟩

theorem putWord (h : SharesMemory s t) (a v : Word) : SharesMemory (s.putWord a v) (t.putWord a v) :=
  (((h.putByte _ _).putByte _ _).putByte _ _).putByte _ _

theorem pushed (h : SharesMemory s t) (v : Word) : SharesMemory (s.putWord (t.reg sp - 4#52) v) (t.pushed v) :=
  (h.setReg _ _).putWord _ _

theorem byteAt (h : SharesMemory s t) (a : Word) : t.byteAt a = s.byteAt a := congrArg (·.readByte a.toNat) h.1

theorem sameMemory (h : SharesMemory s t) : SameMemory s t := ⟨h.byteAt, h.2⟩

end State.SharesMemory

/-! ### What each instruction stores (R55) -/

/-- The memory and the notes of t are those of s after the stores that a row of R55's table makes: none, one byte, one word, or two
words next to each other, the upper one first, as a trap pushes them. -/
inductive State.Stores (s t : State) : Option (Word × Nat) → Prop
  | nothing (h : s.SharesMemory t) : Stores s t none
  | byte (a : Word) (v : Byte) (h : (s.putByte a v).SharesMemory t) : Stores s t (some (a, 1))
  | word (a v : Word) (h : (s.putWord a v).SharesMemory t) : Stores s t (some (a, 4))
  | twoWords (a v w : Word) (h : ((s.putWord (a + 4#52) v).putWord a w).SharesMemory t) : Stores s t (some (a, 8))

theorem branchIf_stores {n : Nat} (s : State) (cond : Bool) (len : Nat) (disp : BitVec n) :
    Completes (branchIf s cond len disp) (s.Stores · none) := by
  refine ⟨_, rfl, .nothing ?_⟩
  cases cond
  · exact State.SharesMemory.refl.advance _
  · exact State.SharesMemory.refl.setPc _

theorem State.loaded_stores (s : State) (rt : Reg) (r : Word) (len : Nat) : s.Stores (s.loaded rt r len) none :=
  .nothing (((State.SharesMemory.refl.setReg rt r).setFlags _).advance len)

theorem State.pushed_stores (s : State) (v target : Word) : s.Stores ((s.pushed v).setPc target) (some (s.reg sp - 4#52, 4)) :=
  .word _ v ((State.SharesMemory.refl.pushed v).setPc target)

/-- A trap pushes the return address and below it the image of SR (R233). -/
theorem State.trapped_stores (s : State) (vec ret : Word) (bval : Bool) :
    s.Stores (s.trapped vec ret bval) (some (s.reg sp - 8#52, 8)) := by
  have hupper : s.reg sp - 8#52 + 4#52 = s.reg sp - 4#52 := by bv_omega
  have hlower : s.reg sp - 4#52 - 4#52 = s.reg sp - 8#52 := by bv_omega
  have hpushes := (((State.SharesMemory.refl (s := s)).setFlags { s.flags with b := bval }).pushed ret).pushed
    (s.setFlags { s.flags with b := bval }).srWord
  rw [State.pushed_sp, State.setFlags_reg, hlower, ← hupper] at hpushes
  exact .twoWords _ ret _ hpushes

/-- Every instruction completes, with the stores of its row of R55's table. -/
theorem exec_stores (i : Instr) (s : State) : Completes (exec i s) (s.Stores · (bytesStored s i)) := by
  match i with
  | .addRR .. | .addRI9 .. | .addRI23 .. | .addRI36 .. | .subRR .. | .subRI9 .. | .subRI23 .. | .subRI36 .. | .andRR ..
  | .andRI9 .. | .andRI23 .. | .andRI36 .. | .orRR .. | .orRI9 .. | .orRI23 .. | .orRI36 .. | .eorRR .. | .eorRI9 ..
  | .eorRI23 .. | .eorRI36 .. | .aslRR .. | .aslSI6 .. | .rolRR .. | .rolSI6 .. | .lsrRR .. | .lsrSI6 .. | .rorRR ..
  | .rorSI6 .. => exact ⟨_, rfl, .nothing (((State.SharesMemory.refl.setReg _ _).setFlags _).advance _)⟩
  | .cmpRR .. | .cmpRI9 .. | .cmpRI23 .. | .cmpRI36 .. | .bitRR .. | .bitRI9 .. | .bitRI23 .. | .bitRI36 .. | .sep _
  | .rep _ => exact ⟨_, rfl, .nothing ((State.SharesMemory.refl.setFlags _).advance _)⟩
  | .ldRR .. | .ldRI9 .. | .ldRI23 .. | .ldRI36 .. => exact ⟨_, loadWordTo_eq .., s.loaded_stores ..⟩
  | .ldbRI36 .. => exact ⟨_, execLdbRI36_eq .., s.loaded_stores ..⟩
  | .stRR .. | .stRI9 .. | .stRI23 .. | .stRI36 .. =>
    exact ⟨_, storeWordFrom_eq .., .word _ _ (State.SharesMemory.refl.advance _)⟩
  | .stbRI36 .. => exact ⟨_, execStbRI36_eq .., .byte _ _ (State.SharesMemory.refl.advance _)⟩
  | .jmpAbs46 _ | .jmpReg _ => exact ⟨_, rfl, .nothing (State.SharesMemory.refl.setPc _)⟩
  | .jsrAbs46 addr => exact ⟨_, execJsrAbs46_eq addr s, s.pushed_stores ..⟩
  | .jsrReg ra => exact ⟨_, execJsrReg_eq ra s, s.pushed_stores ..⟩
  | .rts => exact ⟨_, execRts_eq s, .nothing ((State.SharesMemory.refl.setReg _ _).setPc _)⟩
  | .rti =>
    exact ⟨_, execRti_eq s, .nothing ((((State.SharesMemory.refl.setReg _ _).loadSr _).setReg _ _).setPc _)⟩
  | .pfi | .nop => exact ⟨_, rfl, .nothing (State.SharesMemory.refl.advance 1)⟩
  | .wai | .stp => exact ⟨_, rfl, .nothing ((State.SharesMemory.refl.advance 1).setRun _)⟩
  | .rst => exact ⟨_, execRst_eq s, s.trapped_stores ..⟩
  | .nmi => exact ⟨_, execNmi_eq s, s.trapped_stores ..⟩
  | .irq => exact ⟨_, execIrq_eq s, s.trapped_stores ..⟩
  | .brk const4 => exact ⟨_, execBrk_eq const4 s, s.trapped_stores ..⟩
  | .beqD4 _ | .bneD4 _ | .bplD4 _ | .bmiD4 _ | .bvsD4 _ | .bvcD4 _ | .bcsD4 _ | .bccD4 _ | .braD4 _ | .beqD17 _
  | .bneD17 _ | .bplD17 _ | .bmiD17 _ | .bvsD17 _ | .bvcD17 _ | .bcsD17 _ | .bccD17 _ | .braD17 _ => exact branchIf_stores ..
  | .php => exact ⟨_, execPhp_eq s, s.pushed_stores ..⟩
  | .plp => exact ⟨_, execPlp_eq s, .nothing (((State.SharesMemory.refl.setReg _ _).loadSr _).advance 1)⟩
  | .psh ra =>
    exact ⟨_, execPsh_eq ra s, .word _ _ (((State.SharesMemory.refl.setReg sp (s.reg sp - 4#52)).putWord _ _).advance 1)⟩
  | .pop rt =>
    exact ⟨_, execPop_eq rt s, .nothing ((((State.SharesMemory.refl.setReg _ _).setReg _ _).setFlags _).advance 1)⟩
  | .mvn | .mvp => exact ⟨_, moveWord_eq s _, .word _ _ (State.SharesMemory.refl.stepString _ _).repeatOrLeave⟩
  | .mvnb | .mvpb => exact ⟨_, moveByte_eq s _, .byte _ _ (State.SharesMemory.refl.stepString _ _).repeatOrLeave⟩
  | .sts => exact ⟨_, execSts_eq s, .word _ _ (State.SharesMemory.refl.stepString _ _).repeatOrLeave⟩
  | .stsb => exact ⟨_, execStsb_eq s, .byte _ _ (State.SharesMemory.refl.stepString _ _).repeatOrLeave⟩
  | .cmps => exact ⟨_, execCmps_eq s, .nothing ((State.SharesMemory.refl.stepString _ _).compareOrLeave _ _)⟩
  | .cmpsb => exact ⟨_, execCmpsb_eq s, .nothing ((State.SharesMemory.refl.stepString _ _).compareOrLeave _ _)⟩

/-- What an instruction stores, of the next state it answers. -/
theorem stores_of_exec {i : Instr} {s t : State} (h : exec i s = .next t) : s.Stores t (bytesStored s i) := by
  obtain ⟨t', h', hstores⟩ := exec_stores i s
  obtain rfl : t' = t := Host.Outcome.next.inj (h'.symm.trans h)
  exact hstores

/-! ### Bytes outside a store -/

theorem SameMemoryBut.of_sharesMemory {s t u : State} {a : Word} {n : Nat} (h : SameMemoryBut s t a n) (hu : t.SharesMemory u) :
    SameMemoryBut s u a n := fun b hb => (hu.byteAt b).trans (h b hb)

/-- A word and then the word below it: the bytes outside the eight are outside both. -/
theorem SameMemoryBut.lower_word {s t u : State} {a : Word} (hupper : SameMemoryBut s t (a + 4#52) 4)
    (hlower : SameMemoryBut t u a 4) : SameMemoryBut s u a 8 := by
  intro b hb
  simp only [Outside] at hb
  have houtLower : Outside a 4 b := by simp only [Outside]; omega
  have houtUpper : Outside (a + 4#52) 4 b := by simp only [Outside]; bv_omega
  exact (hlower b houtLower).trans (hupper b houtUpper)

/-- An instruction that stores leaves the bytes outside its row of R55's table as they were. -/
theorem State.Stores.sameMemoryBut {s t : State} {a : Word} {n : Nat} (hwf : s.mem.wf) (h : s.Stores t (some (a, n))) :
    SameMemoryBut s t a n := by
  cases h with
  | byte a v h =>
    obtain ⟨-, hout⟩ := s.putByte_storedByte a v hwf
    exact hout.of_sharesMemory h
  | word a v h =>
    obtain ⟨-, hout⟩ := s.putWord_storedWord a v hwf
    exact hout.of_sharesMemory h
  | twoWords a v w h =>
    obtain ⟨-, hupper⟩ := s.putWord_storedWord (a + 4#52) v hwf
    obtain ⟨-, hlower⟩ := (s.putWord (a + 4#52) v).putWord_storedWord a w (s.putWord_wf _ v hwf)
    exact (hupper.lower_word hlower).of_sharesMemory h

/-! ### The notes of what stores replace (R64; log 15) -/

/-- Every note of s stands in t, and a byte that differs in t is noted there with its value in s. -/
def State.NotedIn (s t : State) : Prop :=
  (∀ c ∈ s.overwritten, c ∈ t.overwritten) ∧ ∀ a : Word, t.byteAt a ≠ s.byteAt a → (a.toNat, s.byteAt a) ∈ t.overwritten

namespace State.NotedIn

variable {s t u : State}

theorem of_sharesMemory (h : s.SharesMemory t) : NotedIn s t :=
  ⟨fun _ hc => h.2.symm ▸ hc, fun a hne => absurd (h.byteAt a) hne⟩

/-- A byte that the first part leaves alone is noted by the second with that same value. -/
theorem trans (h : NotedIn s t) (h' : NotedIn t u) : NotedIn s u := by
  obtain ⟨hkept, hnoted⟩ := h
  obtain ⟨hkept', hnoted'⟩ := h'
  refine ⟨fun c hc => hkept' c (hkept c hc), fun a hne => ?_⟩
  by_cases hsame : t.byteAt a = s.byteAt a
  · exact hsame ▸ hnoted' a (hsame.symm ▸ hne)
  · exact hkept' _ (hnoted a hsame)

end State.NotedIn

/-- A store that changes a byte leaves a note of it, a new one or the one already there; no other byte changes. -/
theorem State.putByte_notedIn (s : State) (a : Word) (v : Byte) (h : s.mem.wf) : s.NotedIn (s.putByte a v) := by
  constructor
  · intro c hc
    simp only [State.putByte]
    split
    · exact hc
    · exact List.mem_cons_of_mem _ hc
  · intro b hne
    rw [State.putByte_byteAt _ _ _ _ h] at hne
    by_cases hba : b = a
    · subst hba
      rw [if_pos rfl] at hne
      simp only [State.putByte]
      split
      · next hold => exact hold.resolve_left hne.symm
      · exact List.mem_cons_self
    · exact absurd (if_neg hba) hne

theorem State.putWord_notedIn (s : State) (a v : Word) (h : s.mem.wf) : s.NotedIn (s.putWord a v) := by
  have h0 := s.putByte_wf a (byteOfWord v 0) h
  have h1 := State.putByte_wf _ (a + 1#52) (byteOfWord v 1) h0
  have h2 := State.putByte_wf _ (a + 2#52) (byteOfWord v 2) h1
  exact (((s.putByte_notedIn _ _ h).trans (State.putByte_notedIn _ _ _ h0)).trans (State.putByte_notedIn _ _ _ h1)).trans
    (State.putByte_notedIn _ _ _ h2)

/-- The stores of every row of R55's table are noted. -/
theorem State.Stores.notedIn {s t : State} {region : Option (Word × Nat)} (hwf : s.mem.wf) (h : s.Stores t region) :
    s.NotedIn t := by
  cases h with
  | nothing h => exact .of_sharesMemory h
  | byte a v h => exact (s.putByte_notedIn a v hwf).trans (.of_sharesMemory h)
  | word a v h => exact (s.putWord_notedIn a v hwf).trans (.of_sharesMemory h)
  | twoWords a v w h =>
    have hlower := (s.putWord (a + 4#52) v).putWord_notedIn a w (s.putWord_wf _ v hwf)
    exact ((s.putWord_notedIn _ v hwf).trans hlower).trans (.of_sharesMemory h)

end Sys2Proof.Machine

namespace Sys2Proof.Claims

open Sys2Proof Sys2Proof.Machine

/-! ### Over every instruction -/

/-- Settles O10: whatever an instruction stores, each store of a byte notes what it replaces. -/
theorem everyChangedByteIsNoted : Obligations.EveryChangedByteIsNoted := by
  unfold Obligations.EveryChangedByteIsNoted
  intro i s t hwf h
  exact (stores_of_exec h).notedIn hwf

/-- Settles O56: by the row of the instruction in R55's table. -/
theorem memoryWrittenByTheTable : Obligations.MemoryWrittenByTheTable := by
  unfold Obligations.MemoryWrittenByTheTable
  intro i s t hwf h
  have hstores := stores_of_exec h
  constructor
  · intro hnone
    rw [hnone] at hstores
    cases hstores with
    | nothing hshares => exact hshares.sameMemory
  · intro a n hsome
    rw [hsome] at hstores
    exact hstores.sameMemoryBut hwf

/-! ### The fetch -/

/-- Settles O8: the first byte's opcode gives the length, and with no note at an address the fetch sees memory. -/
theorem fetchReadsTheInstructionAtPc : Obligations.FetchReadsTheInstructionAtPc := by
  unfold Obligations.FetchReadsTheInstructionAtPc
  intro s i _ h
  obtain ⟨b, bs, hencode, hlen⟩ := encode_eq_cons i
  have hlength : (encode i).length = i.length := splitBytes_length ..
  rw [hencode] at hlength h ⊢
  refine s.fetchBytes_eq b bs hlen fun k hk => ?_
  obtain ⟨hbyte, hnotes⟩ := h k (hlength ▸ hk)
  rw [s.fetchView_eq _ hnotes]
  exact Option.some.inj (hbyte.symm.trans (List.getElem?_eq_getElem hk))

/-- Settles O9: what a fetch sees is memory's byte or one of those noted at the address. -/
theorem fetchSeesOnlyBytesHeld : Obligations.FetchSeesOnlyBytesHeld := by
  unfold Obligations.FetchSeesOnlyBytesHeld
  intro s a
  exact ⟨(List.mem_cons.mp (s.fetchView_mem a)).imp_right (s.mem_oldBytes a _).mp, s.fetchView_eq a⟩

/-! ### Reads, stores and the stack -/

/-- Settles O17: no read stops, and a word is its four bytes joined. -/
theorem memReadIsTheSumOfBytes : Obligations.MemReadIsTheSumOfBytes := by
  unfold Obligations.MemReadIsTheSumOfBytes
  intro s a
  exact ⟨s.loadByte_eq a, _, s.loadWord_eq a, wordOfBytes_toNat ..⟩

/-- Settles O18: no store stops, and it changes memory and its notes alone. -/
theorem memWriteReplacesTheBytes : Obligations.MemWriteReplacesTheBytes := by
  unfold Obligations.MemWriteReplacesTheBytes
  intro s a v b hwf
  constructor
  · exact ⟨_, s.storeByte_eq a b, s.putByte_storedByte a b hwf, fun _ => rfl, rfl, rfl, rfl, rfl, rfl⟩
  · refine ⟨_, s.storeWord_eq a v, s.putWord_storedWord a v hwf, fun _ => rfl, rfl, rfl, ⟨rfl, rfl, rfl⟩, fun k hk => ?_⟩
    rw [s.putWord_byteAt_add a v hwf k hk, byteOfWord_toNat]

/-- The word that a push leaves at the pointer it moved (R160). -/
theorem pushed_wordAt_sp (s : State) (v : Word) (hwf : s.mem.wf) : (s.pushed v).wordAt ((s.pushed v).reg sp) = v := by
  obtain ⟨hword, -⟩ := s.pushed_storedWord v hwf
  rw [State.pushed_sp, hword]

/-- A pull after a push brings every register back (R160). -/
theorem pushed_pulled_sameRegs (s : State) (v : Word) :
    SameRegs s ((s.pushed v).setReg sp ((s.pushed v).reg sp + 4#52)) := by
  intro q
  by_cases hq : q = sp
  · rw [hq, State.setReg_sp, State.pushed_sp, BitVec.sub_add_cancel]
  · rw [State.setReg_reg_ne _ _ _ _ hq, State.pushed_reg_ne _ _ _ hq]

/-- Settles O19: push and pull as next states, and what a pull finds after a push. -/
theorem stackPrimitives : Obligations.StackPrimitives := by
  unfold Obligations.StackPrimitives
  intro s v hwf
  refine ⟨⟨_, s.push_eq v, s.pushed_storedWord v hwf, s.setReg_wroteReg sp _, s.pushed_flags v, s.pushed_pc v, s.pushed_run v,
      s.pushed_inputs v, s.pushed_tick v⟩,
    ⟨_, s.pull_eq, s.setReg_wroteReg sp _, s.setReg_sameMemory sp _, s.setReg_flags .., s.setReg_pc .., s.setReg_sameRun sp _⟩,
    s.pushed v, (s.pushed v).setReg sp ((s.pushed v).reg sp + 4#52), s.push_eq v, ?_, pushed_pulled_sameRegs s v⟩
  rw [State.pull_eq, pushed_wordAt_sp s v hwf]

/-- Settles O34: the store leaves the registers alone, so the load computes the same address, where the word stands. -/
theorem loadAfterStoreReadsTheWord : Obligations.LoadAfterStoreReadsTheWord := by
  unfold Obligations.LoadAfterStoreReadsTheWord
  intro s t u rs rt ra rb hwf hrt hstore hload
  obtain rfl := Host.Outcome.next.inj ((storeWordFrom_eq ..).symm.trans hstore)
  obtain rfl := Host.Outcome.next.inj ((loadWordTo_eq ..).symm.trans hload)
  exact (State.setReg_reg_same _ rt _ hrt).trans (s.putWord_wordAt (s.indexed ra rb) (s.reg rs) hwf)

end Sys2Proof.Claims
end

section
/-! The encoding (30_encoding.md): how the decoder reads a run of bytes, that it undoes the encoder, what it answers for every opcode and
function, and which bits it does not look at; from that what stops a step (R101). -/

namespace Sys2Proof

/-! ### A run of bytes and its window (R57, R103) -/

theorem decode_of_none {b0 : Byte} (rest : List Byte) (hlen : opcodeLength (opcodeOfByte b0) = none) :
    decode (b0 :: rest) = .error (.unassignedOpcode (opcodeOfByte b0)) := by
  simp only [decode, hlen]

/-- Too few bytes for the opcode's length are no instruction. -/
theorem decode_of_short {b0 : Byte} {rest : List Byte} {n : Nat} (hlen : opcodeLength (opcodeOfByte b0) = some n)
    (h : (b0 :: rest).length < n) : decode (b0 :: rest) = .error .truncated := by
  simp only [decode, hlen, h, if_true]

/-- Enough bytes are read as the window of the first n of them. -/
theorem decode_of_enough {b0 : Byte} {rest : List Byte} {n : Nat} (hlen : opcodeLength (opcodeOfByte b0) = some n)
    (h : n ≤ (b0 :: rest).length) : decode (b0 :: rest) = decodeIns (joinBytes ((b0 :: rest).take n)) := by
  simp only [decode, hlen, Nat.not_lt.mpr h, if_false]

theorem opcodeLength_bounds : ∀ op : BitVec 6, ∀ n ∈ opcodeLength op, 1 ≤ n ∧ n ≤ 4 := by
  decide

/-- The fields within the first byte of a run are read from that byte. -/
theorem extractLsb'_joinBytes (b0 : Byte) (bs : List Byte) {start len : Nat} (h : start + len ≤ 13) :
    (joinBytes (b0 :: bs)).extractLsb' start len = b0.extractLsb' start len := by
  apply BitVec.eq_of_getLsbD_eq
  intro i hi
  have hbyte : start + i < 13 := by omega
  have hword : start + i < 52 := by omega
  simp [joinBytes, hi, hbyte, hword]

/-! ### The decoder undoes the encoder -/

/-- Bytes after an instruction whose opcode gives its length are not looked at (R103). -/
theorem decode_append_of_opcodeLength (b : Byte) (bs rest : List Byte)
    (hlen : opcodeLength (opcodeOfByte b) = some (b :: bs).length) : decode (b :: bs ++ rest) = decode (b :: bs) := by
  rw [List.cons_append, decode_of_enough hlen (by simp), decode_of_enough hlen (Nat.le_refl _), ← List.cons_append,
    List.take_left, List.take_length]

/-- The decoder's window of an encoding, whatever bytes follow, is the encoder's. -/
theorem decode_encode_append (i : Instr) (rest : List Byte) : decode (encode i ++ rest) = decodeIns (encodeIns i) := by
  obtain ⟨b, bs, hcons, hlen⟩ := Machine.encode_eq_cons i
  obtain ⟨hop, hlt⟩ := Laws.encodedLength i
  calc decode (encode i ++ rest) = decode (encode i) := by rw [hcons, decode_append_of_opcodeLength b bs rest hlen]
    _ = decodeIns (encodeIns i) := decode_splitBytes i.length (encodeIns i) (Nat.pos_of_ne_zero (Machine.length_ne_zero i)) hop hlt

/-- Every format unpacked: the opcode picks the row, the fields are those packed, and a target other than R0 keeps SUB and AND
from reading as CMP and BIT (R98 to R100). -/
theorem decodeIns_encodeIns (i : Instr) (h : i.wellFormed = true) : decodeIns (encodeIns i) = .ok i := by
  match i with
  | .addRR .. | .addRI9 .. | .orRR .. | .orRI9 .. | .eorRR .. | .eorRI9 .. | .ldRR .. | .ldRI9 .. | .stRR .. | .stRI9 ..
  | .aslRR .. | .aslSI6 .. | .rolRR .. | .rolSI6 .. | .lsrRR .. | .lsrSI6 .. | .rorRR .. | .rorSI6 .. =>
    simp [encodeIns, decodeIns, pickRR]
  | .addRI23 .. | .addRI36 .. | .orRI23 .. | .orRI36 .. | .eorRI23 .. | .eorRI36 .. | .ldRI23 .. | .ldRI36 .. | .ldbRI36 ..
  | .stRI23 .. | .stRI36 .. | .stbRI36 .. => simp [encodeIns, decodeIns]
  | .cmpRR .. | .cmpRI9 .. | .bitRR .. | .bitRI9 .. => simp [encodeIns, decodeIns, pickRR, pickRt]
  | .cmpRI23 .. | .cmpRI36 .. | .bitRI23 .. | .bitRI36 .. => simp [encodeIns, decodeIns, pickRt]
  | .subRR rt .. | .subRI9 rt .. | .andRR rt .. | .andRI9 rt .. =>
    have hrt : rt ≠ 0#5 := by simpa [Instr.wellFormed] using h
    simp [encodeIns, decodeIns, pickRR, pickRt, hrt]
  | .subRI23 rt .. | .subRI36 rt .. | .andRI23 rt .. | .andRI36 rt .. =>
    have hrt : rt ≠ 0#5 := by simpa [Instr.wellFormed] using h
    simp [encodeIns, decodeIns, pickRt, hrt]
  | .jmpAbs46 _ | .jsrAbs46 _ | .jmpReg _ | .jsrReg _ | .psh _ | .pop _ | .sep _ | .rep _ | .php | .plp =>
    simp [encodeIns, decodeIns]
  | .rts | .rti | .pfi | .wai | .stp | .nop => simp [encodeIns, decodeIns, decodeGroup24]
  | .rst | .nmi | .irq | .brk _ => simp [encodeIns, decodeIns, decodeGroup34]
  | .mvnb | .mvpb | .stsb | .cmpsb | .mvn | .mvp | .sts | .cmps => simp [encodeIns, decodeIns, decodeGroup45]
  | .beqD4 _ | .bneD4 _ | .bplD4 _ | .bmiD4 _ | .bvsD4 _ | .bvcD4 _ | .bcsD4 _ | .bccD4 _ =>
    simp [encodeIns, decodeIns, decodeBranchD4]
  | .beqD17 _ | .bneD17 _ | .bplD17 _ | .bmiD17 _ | .bvsD17 _ | .bvcD17 _ | .bcsD17 _ | .bccD17 _ =>
    simp [encodeIns, decodeIns, decodeBranchD17]
  | .braD4 _ | .braD17 _ => simp [encodeIns, decodeIns]

/-! ### What the decoder answers, opcode by opcode -/

/-- A function or condition in bits 8..6 that R99 leaves unassigned in an assigned opcode (R101). -/
abbrev UnassignedFunction (op : BitVec 6) (fn : BitVec 3) : Prop :=
  (op.toNat = 0o24 ∧ (fn.toNat = 3 ∨ fn.toNat = 5)) ∨ (op.toNat = 0o34 ∧ 4 ≤ fn.toNat) ∨
    ((op.toNat = 0o25 ∨ op.toNat = 0o35) ∧ 1 ≤ fn.toNat)

/-- An answer for opcode op and function fn that the tables of the chapter allow: a well-formed instruction of the length in R81's
table where opcode and function are assigned, an error only where one of them is not (R81, R99 to R101). -/
def MeetsTables (op : BitVec 6) (fn : BitVec 3) : Except DecodeError Instr → Prop
  | .ok i => i.wellFormed = true ∧ opcodeLength op = some i.length ∧ ¬ UnassignedFunction op fn
  | .error _ => opcodeLength op = none ∨ UnassignedFunction op fn

/-- Only four opcodes have a function that is unassigned. -/
theorem not_unassignedFunction {op : BitVec 6} (h : op.toNat ∉ [0o24, 0o25, 0o34, 0o35]) (fn : BitVec 3) :
    ¬ UnassignedFunction op fn := by
  simp only [List.mem_cons, List.not_mem_nil, or_false] at h
  omega

/-- An instruction is a right answer in an opcode without unassigned functions. -/
theorem meetsTables_ok {op : BitVec 6} {fn : BitVec 3} {i : Instr} (hwf : i.wellFormed = true)
    (hlen : opcodeLength op = some i.length) (hop : op.toNat ∉ [0o24, 0o25, 0o34, 0o35]) : MeetsTables op fn (.ok i) :=
  ⟨hwf, hlen, not_unassignedFunction hop fn⟩

theorem meetsTables_pickRR {op : BitVec 6} {fn : BitVec 3} {ins : BitVec 52} {rr ri9 : Instr} (hrr : MeetsTables op fn (.ok rr))
    (hri9 : MeetsTables op fn (.ok ri9)) : MeetsTables op fn (pickRR ins rr ri9) := by
  unfold pickRR
  split
  · exact hrr
  · exact hri9

/-- SUB and AND are answered only where their target is not R0, so that they are well-formed (R100). -/
theorem meetsTables_pickRt {op : BitVec 6} {fn : BitVec 3} {ins : BitVec 52} {alternate base : Instr}
    (halternate : MeetsTables op fn (.ok alternate)) (hbase : (fieldRt ins != 0) = true → MeetsTables op fn (.ok base)) :
    MeetsTables op fn (.ok (pickRt ins alternate base)) := by
  unfold pickRt
  split
  · exact halternate
  · next hrt => exact hbase (bne_iff_ne.mpr hrt)

theorem decodeGroup24_meetsTables (ins : BitVec 52) : MeetsTables 0o24#6 (fieldFn3 ins) (decodeGroup24 ins) := by
  unfold decodeGroup24
  split
  case h_7 => exact .inr (by generalize fieldFn3 ins = fn at *; revert fn; decide)
  all_goals next hfn => exact ⟨rfl, rfl, by rw [hfn]; decide⟩

theorem decodeGroup34_meetsTables (ins : BitVec 52) : MeetsTables 0o34#6 (fieldFn3 ins) (decodeGroup34 ins) := by
  unfold decodeGroup34
  split
  case h_5 => exact .inr (by generalize fieldFn3 ins = fn at *; revert fn; decide)
  all_goals next hfn => exact ⟨rfl, rfl, by rw [hfn]; decide⟩

/-- In the string group, as in the two conditional-branch opcodes below, all eight functions are assigned (R99). -/
theorem decodeGroup45_meetsTables (ins : BitVec 52) (fn : BitVec 3) : MeetsTables 0o45#6 fn (decodeGroup45 ins) := by
  unfold decodeGroup45
  split <;> exact meetsTables_ok rfl rfl (by decide)

theorem decodeBranchD4_meetsTables (ins : BitVec 52) (fn : BitVec 3) : MeetsTables 0o05#6 fn (decodeBranchD4 ins) := by
  unfold decodeBranchD4
  split <;> exact meetsTables_ok rfl rfl (by decide)

theorem decodeBranchD17_meetsTables (ins : BitVec 52) (fn : BitVec 3) : MeetsTables 0o15#6 fn (decodeBranchD17 ins) := by
  unfold decodeBranchD17
  split <;> exact meetsTables_ok rfl rfl (by decide)

/-- BRA is assigned for Cond3 = 0 alone, in both its opcodes (R181). -/
theorem braOnly_meetsTables {op : BitVec 6} {fn : BitVec 3} {i : Instr} {e : DecodeError} (hop : op.toNat = 0o25 ∨ op.toNat = 0o35)
    (hwf : i.wellFormed = true) (hlen : opcodeLength op = some i.length) :
    MeetsTables op fn (if fn = 0#3 then .ok i else .error e) := by
  split
  · next hfn => exact ⟨hwf, hlen, by subst hfn; rcases hop with h | h <;> simp [h]⟩
  · next hfn => exact .inr (.inr (.inr ⟨hop, by bv_omega⟩))

/-- The decoder answers as the tables of the chapter say, for every window: each opcode's row in turn. -/
theorem decodeIns_meetsTables (ins : BitVec 52) : MeetsTables (fieldOp ins) (fieldFn3 ins) (decodeIns ins) := by
  unfold decodeIns
  dsimp only
  split
  -- `h_n` is row n of the decoder's match; first the opcodes whose bit 25 tells two formats apart
  case h_1 hop | h_10 hop | h_13 hop | h_16 hop | h_17 hop | h_18 hop | h_19 hop | h_20 hop | h_24 hop =>
    rw [hop]
    exact meetsTables_pickRR (meetsTables_ok rfl rfl (by decide)) (meetsTables_ok rfl rfl (by decide))
  -- SUB and AND, the same with CMP and BIT beside them
  case h_4 hop | h_7 hop =>
    rw [hop]
    exact meetsTables_pickRR
      (meetsTables_pickRt (meetsTables_ok rfl rfl (by decide)) fun hrt => meetsTables_ok hrt rfl (by decide))
      (meetsTables_pickRt (meetsTables_ok rfl rfl (by decide)) fun hrt => meetsTables_ok hrt rfl (by decide))
  case h_5 hop | h_6 hop | h_8 hop | h_9 hop =>
    rw [hop]
    exact meetsTables_pickRt (meetsTables_ok rfl rfl (by decide)) fun hrt => meetsTables_ok hrt rfl (by decide)
  -- the groups selected by bits 8..6
  case h_32 hop => rw [hop]; exact decodeGroup24_meetsTables ins
  case h_33 hop => rw [hop]; exact decodeGroup34_meetsTables ins
  case h_34 hop => rw [hop]; exact decodeGroup45_meetsTables ins _
  case h_35 hop => rw [hop]; exact decodeBranchD4_meetsTables ins _
  case h_36 hop => rw [hop]; exact decodeBranchD17_meetsTables ins _
  case h_37 hop | h_38 hop => rw [hop]; exact braOnly_meetsTables (by decide) rfl rfl
  -- every opcode not named has no length
  case h_45 => exact .inl (by simp [opcodeLength, *])
  -- the opcodes of one instruction
  all_goals next hop => rw [hop]; exact meetsTables_ok rfl rfl (by decide)

/-- With enough bytes the decoder answers as the tables say for the opcode and the function in the first byte (R103). -/
theorem decode_meetsTables {b0 : Byte} {rest : List Byte} {n : Nat} (hlen : opcodeLength (opcodeOfByte b0) = some n)
    (h : n ≤ (b0 :: rest).length) : MeetsTables (opcodeOfByte b0) (b0.extractLsb' 6 3) (decode (b0 :: rest)) := by
  obtain ⟨m, rfl⟩ : ∃ m, n = m + 1 := Nat.exists_eq_add_of_le' (opcodeLength_bounds _ n hlen).1
  have hdecode : decode (b0 :: rest) = decodeIns (joinBytes (b0 :: rest.take m)) := by
    rw [decode_of_enough hlen h, List.take_succ_cons]
  have hop : fieldOp (joinBytes (b0 :: rest.take m)) = opcodeOfByte b0 := extractLsb'_joinBytes b0 _ (by decide)
  have hfn : fieldFn3 (joinBytes (b0 :: rest.take m)) = b0.extractLsb' 6 3 := extractLsb'_joinBytes b0 _ (by decide)
  rw [hdecode, ← hop, ← hfn]
  exact decodeIns_meetsTables _

/-- What a decoded instruction says of the bytes (R81, R100, R101). -/
theorem decode_cons_ok {b0 : Byte} {rest : List Byte} {i : Instr} (h : decode (b0 :: rest) = .ok i) :
    i.wellFormed = true ∧ i.length ≤ (b0 :: rest).length ∧ opcodeLength (opcodeOfByte b0) = some i.length ∧
      ¬ UnassignedFunction (opcodeOfByte b0) (b0.extractLsb' 6 3) := by
  cases hlen : opcodeLength (opcodeOfByte b0) with
  | none => exact absurd ((decode_of_none rest hlen).symm.trans h) (by simp)
  | some n =>
    rcases Nat.lt_or_ge (b0 :: rest).length n with hshort | henough
    · exact absurd ((decode_of_short hlen hshort).symm.trans h) (by simp)
    · have hmeets := decode_meetsTables hlen henough
      rw [h] at hmeets
      obtain ⟨hwf, hlen', hfn⟩ := hmeets
      obtain rfl := Option.some.inj (hlen.symm.trans hlen')
      exact ⟨hwf, henough, rfl, hfn⟩

/-! ### The unused fields -/

/-- A window with the bits of x flipped, x placed with its bit 0 at `place`. -/
def flipBits {w : Nat} (ins : BitVec 52) (x : BitVec w) (place : Nat) : BitVec 52 := ins ^^^ (x.setWidth 52 <<< place)

section
variable {w : Nat} (ins : BitVec 52) (x : BitVec w) {place : Nat}

/-- A field that lies below the flipped bits or above them is as before. -/
theorem extractLsb'_flipBits {start len : Nat} (h : start + len ≤ place ∨ place + w ≤ start) :
    (flipBits ins x place).extractLsb' start len = ins.extractLsb' start len := by
  apply BitVec.eq_of_getLsbD_eq
  intro i hi
  have hkept : (x.setWidth 52 <<< place).getLsbD (start + i) = false := by
    rw [BitVec.getLsbD_shiftLeft, BitVec.getLsbD_setWidth]
    rcases h with hbelow | habove
    · have : start + i < place := by omega
      simp [this]
    · simp [BitVec.getLsbD_of_ge x (start + i - place) (by omega)]
  simp only [flipBits, BitVec.getLsbD_extractLsb', BitVec.getLsbD_xor, hkept, Bool.xor_false]

theorem fieldOp_flipBits (h : 6 ≤ place) : fieldOp (flipBits ins x place) = fieldOp ins :=
  extractLsb'_flipBits ins x (.inl h)

theorem fieldRt_flipBits (h : 11 ≤ place) : fieldRt (flipBits ins x place) = fieldRt ins :=
  extractLsb'_flipBits ins x (.inl h)

theorem fieldRa_flipBits (h : 16 ≤ place) : fieldRa (flipBits ins x place) = fieldRa ins :=
  extractLsb'_flipBits ins x (.inl h)

theorem fieldRb_flipBits (h : 21 ≤ place) : fieldRb (flipBits ins x place) = fieldRb ins :=
  extractLsb'_flipBits ins x (.inl h)

theorem fieldImm6_flipBits (h : 22 ≤ place) : fieldImm6 (flipBits ins x place) = fieldImm6 ins :=
  extractLsb'_flipBits ins x (.inl h)

theorem fieldFn3_flipBits (h : 9 ≤ place) : fieldFn3 (flipBits ins x place) = fieldFn3 ins :=
  extractLsb'_flipBits ins x (.inl h)

theorem fieldSel_flipBits (h : place + w ≤ 25) : fieldSel (flipBits ins x place) = fieldSel ins :=
  extractLsb'_flipBits ins x (.inr h)

end

theorem fieldOp_of_toNat {ins : BitVec 52} {n : Nat} (h : (fieldOp ins).toNat = n) : fieldOp ins = BitVec.ofNat 6 n := by
  rw [← h, BitVec.ofNat_toNat, BitVec.setWidth_eq]

/-- Format RR reads Rt, Ra and Rb, and bits 24..21 lie above them and below the selector (R82). -/
theorem decodeIns_flipBits_rr (ins : BitVec 52) (x : BitVec 4) (hsel : fieldSel ins = 0#1)
    (hop : (fieldOp ins).toNat ∈ [0o00, 0o10, 0o30, 0o40, 0o50, 0o60, 0o70, 0o06, 0o16, 0o26, 0o36]) :
    decodeIns (flipBits ins x 21) = decodeIns ins := by
  simp only [List.mem_cons, List.not_mem_nil, or_false] at hop
  rcases hop with h | h | h | h | h | h | h | h | h | h | h
  all_goals
    simp [decodeIns, fieldOp_flipBits, fieldRt_flipBits, fieldRa_flipBits, fieldRb_flipBits, fieldSel_flipBits, pickRR, pickRt,
      hsel, fieldOp_of_toNat h]

/-- Format SI6 reads Rt, Ra and Imm6, and bits 24..22 lie above them and below the selector (R86). -/
theorem decodeIns_flipBits_si6 (ins : BitVec 52) (x : BitVec 3) (hsel : fieldSel ins = 1#1)
    (hop : (fieldOp ins).toNat ∈ [0o06, 0o16, 0o26, 0o36]) : decodeIns (flipBits ins x 22) = decodeIns ins := by
  simp only [List.mem_cons, List.not_mem_nil, or_false] at hop
  rcases hop with h | h | h | h
  all_goals
    simp [decodeIns, fieldOp_flipBits, fieldRt_flipBits, fieldRa_flipBits, fieldImm6_flipBits, fieldSel_flipBits, pickRR, hsel,
      fieldOp_of_toNat h]

/-- Format R1 reads one register, below bits 12..11 (R88). -/
theorem decodeIns_flipBits_r1 (ins : BitVec 52) (x : BitVec 2) (hop : (fieldOp ins).toNat ∈ [0o44, 0o54, 0o66, 0o76]) :
    decodeIns (flipBits ins x 11) = decodeIns ins := by
  simp only [List.mem_cons, List.not_mem_nil, or_false] at hop
  rcases hop with h | h | h | h
  all_goals simp [decodeIns, fieldOp_flipBits, fieldRt_flipBits, fieldOp_of_toNat h]

/-- In group 34o only BRK reads bits 12..9 (R89). -/
theorem decodeGroup34_flipBits (ins : BitVec 52) (x : BitVec 4) (hfn : fieldFn3 ins ≠ 3#3) :
    decodeGroup34 (flipBits ins x 9) = decodeGroup34 ins := by
  unfold decodeGroup34
  rw [fieldFn3_flipBits ins x (Nat.le_refl 9)]
  split
  case h_4 h3 => exact absurd h3 hfn
  all_goals rfl

/-- Format F1 reads the function, below bits 12..9 (R89). -/
theorem decodeIns_flipBits_f1 (ins : BitVec 52) (x : BitVec 4)
    (hop : (fieldOp ins).toNat ∈ [0o24, 0o45] ∨ ((fieldOp ins).toNat = 0o34 ∧ fieldFn3 ins ≠ 3#3)) :
    decodeIns (flipBits ins x 9) = decodeIns ins := by
  simp only [List.mem_cons, List.not_mem_nil, or_false] at hop
  rcases hop with (h | h) | ⟨h, hfn⟩
  · simp [decodeIns, decodeGroup24, fieldOp_flipBits, fieldFn3_flipBits, fieldOp_of_toNat h]
  · simp [decodeIns, decodeGroup45, fieldOp_flipBits, fieldFn3_flipBits, fieldOp_of_toNat h]
  · simp [decodeIns, decodeGroup34_flipBits ins x hfn, fieldOp_flipBits, fieldOp_of_toNat h]

/-- Format Z1 reads the opcode alone (R92). -/
theorem decodeIns_flipBits_z1 (ins : BitVec 52) (x : BitVec 7) (hop : (fieldOp ins).toNat ∈ [0o65, 0o75]) :
    decodeIns (flipBits ins x 6) = decodeIns ins := by
  simp only [List.mem_cons, List.not_mem_nil, or_false] at hop
  rcases hop with h | h
  all_goals simp [decodeIns, fieldOp_flipBits, fieldOp_of_toNat h]

end Sys2Proof

namespace Sys2Proof.Machine

/-! ### The fetch and the boundary where the bytes decode to nothing -/

/-- The fetch stops on no address: all are plain memory (R59; log 14). -/
theorem State.fetchFrom_completes (s : State) (n : Nat) (a : Word) : ∃ bytes, s.fetchFrom n a = .ok bytes := by
  induction n generalizing a with
  | zero => exact ⟨[], rfl⟩
  | succ n ih =>
    obtain ⟨rest, hrest⟩ := ih (a + 1#52)
    exact ⟨s.fetchView a :: rest, by rw [State.fetchFrom, hrest]; rfl⟩

theorem State.fetchBytes_completes (s : State) : ∃ bytes, s.fetchBytes = .ok bytes := s.fetchFrom_completes _ _

/-- Where the fetched bytes decode to nothing, the step is refused (R101; log 24). -/
theorem State.runFetched_of_error (s : State) (run : Instr → State → Result) (bytes : List Byte) (e : DecodeError)
    (hfetch : s.fetchBytes = .ok bytes) (hdecode : decode bytes = .error e) :
    s.runFetched run = .refused .unassignedEncoding := by
  simp only [State.runFetched, hfetch, hdecode]

end Sys2Proof.Machine

namespace Sys2Proof.Claims

open Sys2Proof Sys2Proof.Machine

/-- Settles O1: the bytes join to the encoder's window, and the window decodes to the instruction. -/
theorem decodeEncodeAgree : Obligations.DecodeEncodeAgree := by
  unfold Obligations.DecodeEncodeAgree
  intro i rest h
  rw [decode_encode_append, decodeIns_encodeIns i h]

/-- Settles O2: no bytes decode to nothing, and of a first byte with others decode_cons_ok says it all. -/
theorem decodedIsWellFormed : Obligations.DecodedIsWellFormed := by
  unfold Obligations.DecodedIsWellFormed
  intro bytes i h
  cases bytes with
  | nil => exact absurd h (by simp [decode])
  | cons b0 rest =>
    obtain ⟨hwf, henough, hlen, -⟩ := decode_cons_ok h
    exact ⟨hwf, henough, congrArg some hlen⟩

/-- Settles O3: in each format no field that the decoder reads meets the unused one. -/
theorem unusedFieldsAreIgnored : Obligations.UnusedFieldsAreIgnored := by
  unfold Obligations.UnusedFieldsAreIgnored
  exact ⟨decodeIns_flipBits_rr, decodeIns_flipBits_si6, decodeIns_flipBits_r1, decodeIns_flipBits_f1, decodeIns_flipBits_z1⟩

/-- The list of R101 is the opcodes without a length and the unassigned functions of the others. -/
theorem unassigned_iff (b0 : Byte) :
    unassigned b0 ↔ opcodeLength (opcodeOfByte b0) = none ∨ UnassignedFunction (opcodeOfByte b0) (b0.extractLsb' 6 3) := by
  refine or_congr_left ?_
  unfold opcodeOfByte
  generalize b0.extractLsb' 0 6 = op
  revert op
  decide

/-- Settles O4: an answer for an unassigned first byte would contradict what a decoded instruction says of it; every other first
byte has a length, at most 4, and the tables allow no error; the step refuses what the decoder rejects. -/
theorem unassignedEncodingsAreRefused : Obligations.UnassignedEncodingsAreRefused := by
  unfold Obligations.UnassignedEncodingsAreRefused
  refine ⟨fun b0 rest h => ?_, fun b0 rest h hrest => ?_, fun s bytes e hquiet hrun hfetch hdecode => ?_⟩
  · cases hdecode : decode (b0 :: rest) with
    | error e => exact ⟨e, rfl⟩
    | ok i =>
      obtain ⟨-, -, hlen, hfn⟩ := decode_cons_ok hdecode
      rcases (unassigned_iff b0).mp h with hnone | hun
      · exact absurd (hnone.symm.trans hlen) nofun
      · exact absurd hun hfn
  · rw [unassigned_iff, not_or] at h
    obtain ⟨hlen, hfn⟩ := h
    obtain ⟨n, hn⟩ := Option.ne_none_iff_exists'.mp hlen
    have hmeets := decode_meetsTables (rest := rest) hn (Nat.le_trans (opcodeLength_bounds _ n hn).2 (Nat.succ_le_succ hrest))
    cases hdecode : decode (b0 :: rest) with
    | ok i => exact ⟨i, rfl⟩
    | error e =>
      rw [hdecode] at hmeets
      exact absurd hmeets (not_or.mpr ⟨hlen, hfn⟩)
  · have hfetch' : { s with inputs := s.inputs.tail }.fetchBytes = .ok bytes :=
      (s.fetchBytes_withInputs s.inputs.tail).trans hfetch
    have hstep : step s = ({ s with inputs := s.inputs.tail } : State).runFetched exec :=
      s.boundary_of_no_interrupt exec (congrArg Inputs.rst hquiet) (congrArg Inputs.nmi hquiet)
        (.inl (congrArg Inputs.irq hquiet)) hrun
    rw [hstep, State.runFetched_of_error _ exec bytes e hfetch' hdecode]

/-- A fetched instruction runs to a next state, since none stops, or the bytes decode to nothing (R101). -/
theorem runFetched_stops (s : State) : (∃ t, s.runFetched exec = .next t) ∨
    (s.runFetched exec = .refused .unassignedEncoding ∧ ∃ bytes e, s.fetchBytes = .ok bytes ∧ decode bytes = .error e) := by
  obtain ⟨bytes, hfetch⟩ := s.fetchBytes_completes
  cases hdecode : decode bytes with
  | ok i =>
    obtain ⟨t, ht⟩ := noInstructionStops i { s with tick := s.tick + 1 }
    exact .inl ⟨t, (s.runFetched_of_decode exec bytes i hfetch hdecode).trans ht⟩
  | error e => exact .inr ⟨s.runFetched_of_error exec bytes e hfetch hdecode, bytes, e, hfetch, hdecode⟩

/-- Settles O53: every other branch of the boundary of R236 answers a next state. -/
theorem onlyUnassignedEncodingsStopTheMachine : Obligations.OnlyUnassignedEncodingsStopTheMachine := by
  unfold Obligations.OnlyUnassignedEncodingsStopTheMachine
  intro s
  rw [← s.fetchBytes_withInputs s.inputs.tail]
  simp only [step, State.boundary, State.resetEvent_eq, State.trapEntry_eq, finish_ok]
  -- a reset, a stopped core, nmi, an unmasked irq, the end of a wait
  iterate 5
    split
    · exact .inl ⟨_, rfl⟩
  split
  · exact runFetched_stops _
  · exact .inl ⟨_, rfl⟩

/-- Settles O5, for the 64 opcodes. -/
theorem lengthsOfTheOpcodes : Obligations.LengthsOfTheOpcodes := by
  unfold Obligations.LengthsOfTheOpcodes
  decide

/-- Settles O6. -/
theorem sampleWordsDecode : Obligations.SampleWordsDecode := by
  unfold Obligations.SampleWordsDecode
  decide

end Sys2Proof.Claims
end

section
/-! Jumps, calls and branches (44_flow.md R170 to R181), and SEP and REP (R198, R199): their targets as integers modulo 2^52, and that a
new pc, a push or the masked flags are all they do. -/

namespace Sys2Proof.Machine

/-! ### Targets (R170, R178) -/

theorem State.npc_eq (s : State) (len : Nat) : s.npc len = BitVec.ofNat 52 (s.pc.toNat + len) := by
  rw [State.npc, BitVec.ofNat_add, BitVec.ofNat_toNat, BitVec.setWidth_eq]

/-- The target of an absolute jump: the upper six bits of pc are its multiples of 2^46. -/
theorem State.absTarget_eq (s : State) (addr : BitVec 46) :
    s.absTarget addr = BitVec.ofNat 52 (s.pc.toNat / 2 ^ 46 * 2 ^ 46 + addr.toNat) := by
  apply BitVec.eq_of_toNat_eq
  rw [State.absTarget, BitVec.toNat_append, BitVec.extractLsb'_toNat, ← Nat.shiftLeft_add_eq_or_of_lt addr.isLt,
    Nat.shiftLeft_eq, Nat.shiftRight_eq_div_pow, BitVec.toNat_ofNat]
  omega

/-- The target of a branch under BRANCH_BASE's default, as an integer modulo 2^52 (R178). -/
theorem State.branchTarget_eq {n : Nat} (s : State) (len : Nat) (d : BitVec n) :
    s.branchTarget len d = BitVec.ofInt 52 (s.pc.toNat + len + d.toInt) := by
  have hnext : s.branchTarget len d = s.npc len + d.signExtend 52 := rfl
  rw [hnext, State.npc_eq, BitVec.signExtend, BitVec.ofInt_add, ← BitVec.ofInt_natCast, Nat.cast_add]

end Sys2Proof.Machine

namespace Sys2Proof.Claims

open Sys2Proof Sys2Proof.Machine

/-- A new pc and nothing else. -/
theorem onlyFlagsAndPc_setPc (s : State) (target : Word) : OnlyFlagsAndPc s (.next (s.setPc target)) s.flags target :=
  ⟨_, rfl, fun _ => rfl, rfl, rfl, ⟨fun _ => rfl, rfl⟩, rfl, rfl, rfl⟩

/-- Settles O38. -/
theorem jmpResult : Obligations.JmpResult := by
  unfold Obligations.JmpResult
  intro s ra addr
  exact ⟨s.absTarget_eq addr ▸ onlyFlagsAndPc_setPc s _, onlyFlagsAndPc_setPc s _⟩

/-- The register JSR [Ra] jumps to is read after the push, so R31 is the lowered pointer (R173; log 22). -/
theorem pushed_reg (s : State) (v : Word) (ra : Reg) :
    (s.pushed v).reg ra = if ra = sp then s.reg sp - 4#52 else s.reg ra := by
  split
  · next h => rw [h, State.pushed_sp]
  · next h => exact s.pushed_reg_ne v ra h

/-- Settles O39: a push of the next instruction's address, then the target. -/
theorem jsrResult : Obligations.JsrResult := by
  unfold Obligations.JsrResult
  intro s ra addr h
  constructor
  · rw [exec, execJsrAbs46_eq, State.absTarget_eq]
    exact pushDone_next s _ _ h
  · rw [exec, execJsrReg_eq, pushed_reg]
    exact pushDone_next s _ _ h

/-- A branch on a condition: in both outcomes a new pc and nothing else (R178 to R180). -/
theorem branchIf_branches {n : Nat} (s : State) (cond : Bool) (taken : Prop) [Decidable taken] (len : Nat) (d : BitVec n)
    (h : cond = true ↔ taken) : Branches s (branchIf s cond len d) taken len d := by
  unfold Branches branchIf
  simp only [← h]
  cases cond
  · rw [← State.npc_eq]
    exact onlyFlagsAndPc_setPc s _
  · rw [← State.branchTarget_eq]
    exact onlyFlagsAndPc_setPc s _

/-- A branch taken when a flag is 1. -/
theorem branchIf_branches_set {n : Nat} (s : State) (flag : Bool) (len : Nat) (d : BitVec n) :
    Branches s (branchIf s flag len d) (flag = true) len d :=
  branchIf_branches s flag _ len d Iff.rfl

/-- A branch taken when a flag is 0. -/
theorem branchIf_branches_clear {n : Nat} (s : State) (flag : Bool) (len : Nat) (d : BitVec n) :
    Branches s (branchIf s (!flag) len d) (flag = false) len d :=
  branchIf_branches s (!flag) _ len d (iff_of_eq (Bool.not_eq_true' flag))

/-- Settles O43: BEQ, BNE, BPL, BMI, BVS, BVC, BCS, BCC and BRA, with four bits and with seventeen. -/
theorem branchResults : Obligations.BranchResults := by
  unfold Obligations.BranchResults
  intro s d4 d17
  have hbra {n : Nat} (len : Nat) (d : BitVec n) : Branches s (branchIf s true len d) True len d :=
    branchIf_branches s true True len d (iff_of_true rfl trivial)
  exact ⟨branchIf_branches_set .., branchIf_branches_clear .., branchIf_branches_clear .., branchIf_branches_set ..,
    branchIf_branches_set .., branchIf_branches_clear .., branchIf_branches_set .., branchIf_branches_clear .., hbra ..,
    branchIf_branches_set .., branchIf_branches_clear .., branchIf_branches_clear .., branchIf_branches_set ..,
    branchIf_branches_set .., branchIf_branches_clear .., branchIf_branches_set .., branchIf_branches_clear .., hbra ..⟩

/-- Under the default SR_LAYOUT bits 0 to 5 of the mask stand for c v n z i u (R198 to R200). -/
theorem setMasked_eq (f : Flags) (m : BitVec 7) (on : Bool) : f.setMasked config.srLayout m on = maskedFlags f m on := rfl

/-- Settles O45. -/
theorem sepAndRepResult : Obligations.SepAndRepResult := by
  unfold Obligations.SepAndRepResult
  intro s m
  rw [← setMasked_eq, ← setMasked_eq]
  exact ⟨onlyFlagsAndPc_next s _ 1, onlyFlagsAndPc_next s _ 1⟩

end Sys2Proof.Claims
end

section
/-! Compares of strings (46_string.md R210 to R212, R217, R218, R222): what one step over the pointers and the count writes, how a
compare ends, and from both one element of CMPS and of CMPSB. -/

namespace Sys2Proof.Machine

/-! ### A step over the pointers and the count (R212) -/

@[simp] theorem State.stepString_pc (s : State) (dx dy : Word) : (s.stepString dx dy).pc = s.pc := by
  simp [State.stepString]

@[simp] theorem State.stepString_flags (s : State) (dx dy : Word) : (s.stepString dx dy).flags = s.flags := by
  simp [State.stepString]

theorem State.stepString_sameRun (s : State) (dx dy : Word) : SameRun s (s.stepString dx dy) := by
  simp [SameRun, State.stepString]

/-! The count, X and Y are three registers, none of them R0: no write hides another one. -/

@[simp] theorem State.stepString_acc (s : State) (dx dy : Word) : (s.stepString dx dy).reg acc = s.reg acc - 1#52 := by
  simp (disch := decide) only [State.stepString, State.setReg_reg_same, State.setReg_reg_ne]

@[simp] theorem State.stepString_xReg (s : State) (dx dy : Word) : (s.stepString dx dy).reg xReg = s.reg xReg + dx := by
  simp (disch := decide) only [State.stepString, State.setReg_reg_same, State.setReg_reg_ne]

@[simp] theorem State.stepString_yReg (s : State) (dx dy : Word) : (s.stepString dx dy).reg yReg = s.reg yReg + dy := by
  simp (disch := decide) only [State.stepString, State.setReg_reg_same, State.setReg_reg_ne]

theorem State.stepString_reg_ne (s : State) (dx dy : Word) (q : Reg) (hcount : q ≠ acc) (hx : q ≠ xReg) (hy : q ≠ yReg) :
    (s.stepString dx dy).reg q = s.reg q := by
  rw [State.stepString, State.setReg_reg_ne _ _ _ _ hcount, State.setReg_reg_ne _ _ _ _ hy, State.setReg_reg_ne _ _ _ _ hx]

end Sys2Proof.Machine

namespace Sys2Proof.Claims

open Sys2Proof Sys2Proof.Machine

/-! ### The end of a compare (R217) -/

/-- Both tests are of a difference: of the count and 1, and of the pair. -/
theorem difference_eq_zero_iff (a b : Word) : a - b = 0#52 ↔ a = b := sub_eq_zero

/-- New flags and a new pc and nothing else: with the count at 0 it leaves with the old flags, else CMP of the pair gives them, and a
pair that differs leaves too. -/
theorem compareOrLeave_eq (s : State) (t1 t2 : Word) :
    s.compareOrLeave t1 t2 =
      (s.setFlags (if s.reg acc = 0#52 then s.flags else compareFlags s.flags t1 t2)).setPc
        (if s.reg acc = 0#52 ∨ t1 ≠ t2 then s.pc + 1#52 else s.pc) := by
  simp only [State.compareOrLeave, afterCmp_eq, difference_eq_zero_iff]
  by_cases hcount : s.reg acc = 0#52
  · simp only [if_pos hcount, if_pos (Or.inl hcount)]
    rfl
  by_cases heq : t1 = t2
  · simp only [if_neg hcount, if_pos heq, if_neg (not_or.mpr ⟨hcount, not_not.mpr heq⟩)]
    rfl
  · simp only [if_neg hcount, if_neg heq, if_pos (Or.inr heq)]
    rfl

/-- One element of a compare, whatever the step of its pointers and the pair it read: the count it tests is the one already lowered. -/
theorem compare_elementDone (s : State) (dx dy t1 t2 : Word) :
    ElementDone s (.next ((s.stepString dx dy).compareOrLeave t1 t2)) (s.reg xReg + dx) (s.reg yReg + dy)
      (elementFlags s t1 t2) (afterCompare s t1 t2) (SameMemory s) := by
  have hmem : SameMemory s ((s.stepString dx dy).compareOrLeave t1 t2) :=
    ((State.SharesMemory.refl.stepString dx dy).compareOrLeave t1 t2).sameMemory
  refine ⟨_, rfl, ?_⟩
  rw [compareOrLeave_eq] at hmem ⊢
  refine ⟨s.stepString_acc dx dy, s.stepString_xReg dx dy, s.stepString_yReg dx dy, s.stepString_reg_ne dx dy, ?_, ?_, hmem,
    s.stepString_sameRun dx dy⟩
  · simp [elementFlags, difference_eq_zero_iff]
  · simp [afterCompare, difference_eq_zero_iff]

/-- LDB_EXT's default: the byte is read as a signed number (R218). -/
theorem extByte_eq (b : Byte) : extByte b = b.signExtend 52 := rfl

/-- Settles O51: both are one compare, of words 4 apart and of signed bytes 1 apart. -/
theorem compares : Obligations.Compares := by
  unfold Obligations.Compares
  intro s
  constructor
  · rw [exec, execCmps_eq]
    exact compare_elementDone ..
  · rw [exec, execCmpsb_eq, extByte_eq, extByte_eq]
    exact compare_elementDone ..

end Sys2Proof.Claims
end

section
/-! Shifts by 52 and more (41_shift.md R141; log 8): one lemma says what the free values stand for, whatever the shift, and all eight
forms are cases of it. -/

namespace Sys2Proof.Claims

open Sys2Proof Sys2Proof.Machine

/-- A shift by a count of 52 or more: Rt and `c` receive the free values, and n and z are those of the value in Rt. -/
theorem shiftTo_wrote_free (s : State) (op : ShiftOp) (rt : Reg) (a count : Word) (hcount : 52 ≤ count.toNat) :
    Wrote s (shiftTo s op rt a count) rt (Config.freeShiftResult op a count s.tick)
      (nz { s.flags with c := Config.freeShiftCarry op a count s.tick } (Config.freeShiftResult op a count s.tick)) 2#52 := by
  have hwide : ¬ count.toNat < 52 := Nat.not_lt.mpr hcount
  have hne : count.toNat ≠ 0 := Nat.ne_zero_of_lt hcount
  have hshifted : s.shifted op a count = Config.freeShiftResult op a count s.tick := if_neg hwide
  have hcarry : s.shiftCarry op a count = Config.freeShiftCarry op a count s.tick := (if_neg hne).trans (if_neg hwide)
  rw [shiftTo, hshifted, hcarry]
  exact wrote_next s rt _ _ 2

theorem shiftTo_wideShift (s : State) (op : ShiftOp) (rt : Reg) (a count : Word) (hcount : 52 ≤ count.toNat) :
    WideShift s (shiftTo s op rt a count) rt :=
  ⟨_, _, shiftTo_wrote_free s op rt a count hcount⟩

/-- Settles O29: in the register form the count is the whole of x[Rb], in the immediate form it is Imm6. -/
theorem wideShiftsComplete : Obligations.WideShiftsComplete := by
  unfold Obligations.WideShiftsComplete
  intro s rt ra rb i6
  have hreg (op : ShiftOp) (h : 52 ≤ (s.reg rb).toNat) : WideShift s (shiftTo s op rt (s.reg ra) (s.reg rb)) rt :=
    shiftTo_wideShift s op rt _ _ h
  have himm (op : ShiftOp) (h : 52 ≤ i6.toNat) : WideShift s (shiftTo s op rt (s.reg ra) (immCount i6)) rt :=
    shiftTo_wideShift s op rt _ _ ((immCount_toNat i6).symm ▸ h)
  exact ⟨hreg .asl, himm .asl, hreg .rol, himm .rol, hreg .lsr, himm .lsr, hreg .ror, himm .ror⟩

end Sys2Proof.Claims
end

section
/-! PSH (43_stack.md R163): a push52 of the register, read after the pointer is lowered. -/

namespace Sys2Proof.Claims

open Sys2Proof Sys2Proof.Machine

/-- The register PSH stores is read once the pointer is lowered, so R31 is the lowered pointer (R163; log 22). -/
theorem lowered_reg (s : State) (ra : Reg) :
    (s.setReg sp (s.reg sp - 4#52)).reg ra = if ra = sp then s.reg sp - 4#52 else s.reg ra := by
  split
  · next hsp => rw [hsp, State.setReg_sp]
  · next hsp => exact s.setReg_reg_ne sp ra _ hsp

/-- PSH is push52 of the value its register has after the decrement (R160, R163). -/
theorem execPsh_eq_pushed (ra : Reg) (s : State) :
    execPsh ra s = .next ((s.pushed (if ra = sp then s.reg sp - 4#52 else s.reg ra)).advance 1) := by
  rw [execPsh_eq, lowered_reg, State.pushed]

/-- Settles O36. -/
theorem pshResult : Obligations.PshResult := by
  unfold Obligations.PshResult
  intro s ra h
  have hpc (v : Word) : (s.pushed v).npc 1 = s.pc + 1#52 := congrArg (· + 1#52) (s.pushed_pc v)
  rw [exec, execPsh_eq_pushed, State.advance, hpc]
  exact pushDone_next s _ _ h

end Sys2Proof.Claims
end

section
/-! The trap and its return (60_exceptions.md R233, R240; 44_flow.md R175), and RTS and NOP, two more functions of group 24o (R99, R174, R176). -/

namespace Sys2Proof

/-- A byte whose low nine bits hold opcode 24o and a function is read by group 24o as that function, whatever bits 12..9 hold (R99). -/
theorem decode_group24 {b : Byte} {fn : BitVec 3} (h : b.extractLsb' 0 9 = fn ++ 0o24#6) :
    ∃ ins, fieldFn3 ins = fn ∧ decode [b] = decodeGroup24 ins := by
  have hop : opcodeOfByte b = 0o24#6 := by
    rw [opcodeOfByte, ← BitVec.extractLsb'_extractLsb'_of_le (len' := 9) (by decide), h, BitVec.extractLsb'_append_eq_right]
  have hfn : b.extractLsb' 6 3 = fn := by
    rw [← BitVec.extractLsb'_extractLsb'_of_le (len' := 9) (by decide), h, BitVec.extractLsb'_append_eq_left]
  have hlen : opcodeLength (opcodeOfByte b) = some [b].length := hop ▸ rfl
  have hfield : fieldOp (joinBytes [b]) = 0o24#6 := (extractLsb'_joinBytes b [] (by decide)).trans hop
  refine ⟨joinBytes [b], (extractLsb'_joinBytes b [] (by decide)).trans hfn, ?_⟩
  rw [decode_of_enough hlen (Nat.le_refl _), List.take_length]
  simp only [decodeIns, hfield]

end Sys2Proof

namespace Sys2Proof.Machine

/-! ### What follows from a frame -/

/-- A register written and then given its old value: all registers are back. -/
theorem WroteReg.sameRegs_of_restored {s t u : State} {r : Reg} {v : Word} (h : WroteReg s t r v)
    (hback : WroteReg t u r (s.reg r)) : SameRegs s u := by
  obtain ⟨-, -, hother⟩ := h
  obtain ⟨hzero, hsame, hother'⟩ := hback
  intro q
  by_cases hq : q = r
  · subst hq
    by_cases hq0 : q = 0#5
    · rw [hq0, hzero, State.reg_zero]
    · exact hsame hq0
  · exact (hother' q hq).trans (hother q hq)

/-- The word next above four bytes that are replaced is as before, also across the top of memory. -/
theorem SameMemoryBut.wordAt_above {s t : State} {a : Word} (h : SameMemoryBut s t a 4) :
    t.wordAt (a + 4#52) = s.wordAt (a + 4#52) := by
  have habove (k : Word) (hk : k.toNat < 4) : t.byteAt (a + 4#52 + k) = s.byteAt (a + 4#52 + k) := by
    apply h
    simp only [Outside]
    bv_omega
  have hfirst := habove 0#52 (by decide)
  rw [BitVec.add_zero] at hfirst
  rw [State.wordAt_eq, State.wordAt_eq, hfirst, habove 1#52 (by decide), habove 2#52 (by decide), habove 3#52 (by decide)]

theorem SameMemoryBut.trans_sameMemory {s t u : State} {a : Word} {n : Nat} (h : SameMemoryBut s t a n) (hu : SameMemory t u) :
    SameMemoryBut s u a n := by
  obtain ⟨hbytes, -⟩ := hu
  exact fun b hb => (hbytes b).trans (h b hb)

/-! ### The trap (R233) -/

/-- The eight flags survive the way through the image of SR (R29). -/
theorem flagsOf_imageOf (f : Flags) : flagsOf (imageOf f) = f := by
  have hall : ∀ c v n z i u b d, flagsOf (imageOf ⟨c, v, n, z, i, u, b, d⟩) = ⟨c, v, n, z, i, u, b, d⟩ := by decide
  exact hall ..

/-- Two pushes move the pointer by 8 and write no other register. -/
theorem State.pushed_pushed_wroteReg (s : State) (v w : Word) : WroteReg s ((s.pushed v).pushed w) sp (s.reg sp - 8#52) := by
  have hsp : s.reg sp - 4#52 - 4#52 = s.reg sp - 8#52 := by bv_omega
  refine ⟨State.reg_zero _, fun _ => ?_, fun q hq => ?_⟩
  · rw [State.pushed_sp, State.pushed_sp, hsp]
  · rw [State.pushed_reg_ne _ _ _ hq, State.pushed_reg_ne _ _ _ hq]

/-- Of two pushes the second word stands at the pointer and the first, which it leaves alone, 4 above. -/
theorem State.pushed_pushed_words (s : State) (v w : Word) (h : s.mem.wf) :
    ((s.pushed v).pushed w).wordAt (s.reg sp - 8#52) = w ∧ ((s.pushed v).pushed w).wordAt (s.reg sp - 4#52) = v := by
  obtain ⟨hupper, -⟩ := s.pushed_storedWord v h
  obtain ⟨hlower, hout⟩ := (s.pushed v).pushed_storedWord w (s.pushed_wf v h)
  have habove := hout.wordAt_above
  have hlow : s.reg sp - 4#52 - 4#52 = s.reg sp - 8#52 := by bv_omega
  rw [State.pushed_sp, hlow] at hlower
  rw [State.pushed_sp, BitVec.sub_add_cancel] at habove
  exact ⟨hlower, habove.trans hupper⟩

theorem State.pushed_pushed_sameRun (s : State) (v w : Word) : SameRun s ((s.pushed v).pushed w) :=
  ⟨((s.pushed v).pushed_run w).trans (s.pushed_run v), ((s.pushed v).pushed_inputs w).trans (s.pushed_inputs v),
    ((s.pushed v).pushed_tick w).trans (s.pushed_tick v)⟩

/-- The image that a trap pushes has `b` as the trap writes it and the old `i`; the return address stands above it (R233). -/
theorem State.trapped_words (s : State) (vec ret : Word) (bval : Bool) (h : s.mem.wf) :
    (s.trapped vec ret bval).wordAt (s.reg sp - 8#52) = imageOf { s.flags with b := bval } ∧
      (s.trapped vec ret bval).wordAt (s.reg sp - 4#52) = ret := by
  have himage : (s.setFlags { s.flags with b := bval }).srWord = imageOf { s.flags with b := bval } := Flags.image_eq _
  obtain ⟨hlower, hupper⟩ :=
    (s.setFlags { s.flags with b := bval }).pushed_pushed_words ret (s.setFlags { s.flags with b := bval }).srWord h
  exact ⟨hlower.trans himage, hupper⟩

/-- TrapEntry leaves what R233 says: two pushes, the flags, and the vector. -/
theorem State.trapped_trapTaken (s : State) (vec ret : Word) (bval : Bool) (h : s.mem.wf) :
    TrapTaken s (s.trapped vec ret bval) vec ret bval := by
  have hregs := (s.setFlags { s.flags with b := bval }).pushed_pushed_wroteReg ret (s.setFlags { s.flags with b := bval }).srWord
  obtain ⟨-, hinputs, htick⟩ :=
    (s.setFlags { s.flags with b := bval }).pushed_pushed_sameRun ret (s.setFlags { s.flags with b := bval }).srWord
  obtain ⟨hlower, hupper⟩ := s.trapped_words vec ret bval h
  exact ⟨hregs, hlower, hupper, (s.trapped_stores vec ret bval).sameMemoryBut h, rfl, rfl, rfl, hinputs, htick⟩

end Sys2Proof.Machine

namespace Sys2Proof.Claims

open Sys2Proof Sys2Proof.Machine

/-- Settles O42. -/
theorem nopResult : Obligations.NopResult := by
  unfold Obligations.NopResult
  intro s b
  refine ⟨fun h => ?_, onlyFlagsAndPc_setPc s _⟩
  obtain ⟨ins, hfn, hdecode⟩ := decode_group24 (fn := 7#3) h
  simp only [hdecode, decodeGroup24, hfn]

/-- Settles O40: RTS is a pull into pc. -/
theorem rtsResult : Obligations.RtsResult := by
  unfold Obligations.RtsResult
  intro s b
  constructor
  · intro h
    obtain ⟨ins, hfn, hdecode⟩ := decode_group24 (fn := 0#3) h
    simp only [hdecode, decodeGroup24, hfn]
  · exact ⟨_, execRts_eq s, s.setReg_wroteReg sp (s.reg sp + 4#52), s.setReg_flags .., rfl,
      ((State.SharesMemory.refl.setReg _ _).setPc _).sameMemory, s.setReg_sameRun sp (s.reg sp + 4#52)⟩

/-- Settles O16: the two words that RTI pulls (R175) are the two that the trap pushed (R233), and the pointer goes down and up by 8. -/
theorem rtiUndoesATrap : Obligations.RtiUndoesATrap := by
  unfold Obligations.RtiUndoesATrap
  intro s vec ret bval h
  obtain ⟨hregs, hsr, hret, hmem, -⟩ := s.trapped_trapTaken vec ret bval h
  have hsp : (s.trapped vec ret bval).reg sp = s.reg sp - 8#52 := by
    obtain ⟨-, hsp, -⟩ := hregs
    exact hsp (by decide)
  have hupper : s.reg sp - 8#52 + 4#52 = s.reg sp - 4#52 := by bv_omega
  obtain ⟨u, hexec, hregs', hflags, hpc, hmem', -⟩ := rtiResult (s.trapped vec ret bval)
  rw [hsp, BitVec.sub_add_cancel] at hregs'
  rw [hsp, hsr, flagsOf_imageOf] at hflags
  rw [hsp, hupper, hret] at hpc
  exact ⟨_, congrArg finish (s.trapEntry_eq vec ret bval),
    u, hexec, hpc, hflags, hregs.sameRegs_of_restored hregs', hmem.trans_sameMemory hmem'⟩

end Sys2Proof.Claims
end

section
/-! An idle core (60_exceptions.md R236), and the system instructions (45_system.md R190 to R197): the traps from program text, PFI, WAI
and STP. -/

namespace Sys2Proof.Machine

/-! ### An idle core (R236) -/

/-- A stopped core answers rst alone, so nmi and irq do not matter (R197). -/
theorem State.boundary_of_stopped (s : State) (run : Instr → State → Result) (hrst : s.inputsNow.rst = false)
    (hstopped : s.run = .stopped) : s.boundary run = .next { s with inputs := s.inputs.tail } := by
  simp [State.boundary, hrst, hstopped]

/-- A waiting core with no input goes on waiting (R196; log 17). -/
theorem State.boundary_of_waiting (s : State) (run : Instr → State → Result) (hrst : s.inputsNow.rst = false)
    (hnmi : s.inputsNow.nmi = false) (hirq : s.inputsNow.irq = false) (hwaiting : s.run = .waiting) :
    s.boundary run = .next { s with inputs := s.inputs.tail } := by
  simp [State.boundary, hrst, hnmi, hirq, hwaiting]

end Sys2Proof.Machine

namespace Sys2Proof.Claims

open Sys2Proof Sys2Proof.Machine

/-- Settles O14. -/
theorem idleCoreDoesNothing : Obligations.IdleCoreDoesNothing := by
  unfold Obligations.IdleCoreDoesNothing
  intro s hrst hidle
  rcases hidle with hstopped | ⟨hwaiting, hnmi, hirq⟩
  · exact s.boundary_of_stopped exec hrst hstopped
  · exact s.boundary_of_waiting exec hrst hnmi hirq hwaiting

/-! ### PFI, WAI, STP (R195 to R197) -/

/-- The end of an instruction in a new run state: pc moves on, and nothing else changes. -/
theorem advance_setRun (s : State) (len : Nat) (r : RunState) :
    Completes (.next { s.advance len with run := r }) fun t =>
      SameRegs s t ∧ t.flags = s.flags ∧ t.pc = s.pc + BitVec.ofNat 52 len ∧ SameMemory s t ∧
        t.run = r ∧ t.inputs = s.inputs ∧ t.tick = s.tick :=
  ⟨_, rfl, fun _ => rfl, rfl, rfl, ((State.SharesMemory.refl.advance len).setRun r).sameMemory, rfl, rfl, rfl⟩

/-- Settles O44. -/
theorem pfiWaiStpResult : Obligations.PfiWaiStpResult := by
  unfold Obligations.PfiWaiStpResult
  intro s
  exact ⟨onlyFlagsAndPc_setPc s _, advance_setRun s 1 .waiting, advance_setRun s 1 .stopped⟩

/-! ### Traps from program text (R190 to R193) -/

/-- An outcome that is the state after TrapEntry takes the trap (R233). -/
theorem completes_of_eq_trapped {s : State} {o : Result} {vec ret : Word} {bval : Bool} (h : s.mem.wf)
    (ho : o = .next (s.trapped vec ret bval)) : Completes o fun t => TrapTaken s t vec ret bval :=
  ⟨_, ho, s.trapped_trapTaken vec ret bval h⟩

/-- Settles O46: the trap's vector is the platform's VEC_BRK, and Const4 is not used. -/
theorem brkResult : Obligations.BrkResult := by
  unfold Obligations.BrkResult
  intro s k h
  exact completes_of_eq_trapped h (execBrk_eq k s)

/-- Settles O47: each opcode's vector is the platform's, and none of the three looks at `i`. -/
theorem trapOpcodesResult : Obligations.TrapOpcodesResult := by
  unfold Obligations.TrapOpcodesResult
  intro s h
  exact ⟨completes_of_eq_trapped h (execRst_eq s), completes_of_eq_trapped h (execNmi_eq s),
    completes_of_eq_trapped h (execIrq_eq s)⟩

end Sys2Proof.Claims
end

section
/-! Moves and fills of strings (46_string.md R210 to R216, R218 to R221): how they end, and from that one element, whatever it stores
and whatever the steps of its pointers. -/

namespace Sys2Proof.Machine

/-! ### A store, and then what leaves memory alone -/

theorem StoredWord.of_sharesMemory {s t u : State} {a v : Word} (h : StoredWord s t a v) (hu : t.SharesMemory u) :
    StoredWord s u a v := by
  obtain ⟨hword, hout⟩ := h
  have hsame : u.wordAt a = t.wordAt a := congrArg (·.readWord a) hu.left
  exact ⟨hsame.trans hword, hout.of_sharesMemory hu⟩

theorem StoredByte.of_sharesMemory {s t u : State} {a : Word} {v : Byte} (h : StoredByte s t a v) (hu : t.SharesMemory u) :
    StoredByte s u a v := by
  obtain ⟨hbyte, hout⟩ := h
  exact ⟨(hu.byteAt a).trans hbyte, hout.of_sharesMemory hu⟩

/-! ### The end of a move or a fill (R211) -/

/-- It writes pc alone. -/
theorem State.repeatOrLeave_eq (s : State) :
    s.repeatOrLeave = s.setPc (if s.reg acc = 0#52 then s.pc + 1#52 else s.pc) := by
  unfold State.repeatOrLeave
  split <;> rfl

end Sys2Proof.Machine

namespace Sys2Proof.Claims

open Sys2Proof Sys2Proof.Machine

/-! ### One element of a move or a fill -/

/-- What follows the store of an element: the count that decides about pc is the one already lowered. -/
theorem stepString_repeatOrLeave_elementDone (s : State) (dx dy : Word) :
    ElementDone s (.next (s.stepString dx dy).repeatOrLeave) (s.reg xReg + dx) (s.reg yReg + dy) s.flags (afterElement s)
      s.SharesMemory := by
  have hmem : s.SharesMemory (s.stepString dx dy).repeatOrLeave := (State.SharesMemory.refl.stepString dx dy).repeatOrLeave
  refine ⟨_, rfl, ?_⟩
  rw [State.repeatOrLeave_eq] at hmem ⊢
  refine ⟨s.stepString_acc dx dy, s.stepString_xReg dx dy, s.stepString_yReg dx dy, s.stepString_reg_ne dx dy,
    s.stepString_flags dx dy, ?_, hmem, s.stepString_sameRun dx dy⟩
  simp [afterElement, difference_eq_zero_iff]

theorem elementDone_imp {s : State} {o : Result} {x y : Word} {f : Flags} {target : Word} {memory memory' : State → Prop}
    (h : ElementDone s o x y f target memory) (himp : ∀ t, memory t → memory' t) : ElementDone s o x y f target memory' := by
  obtain ⟨t, hnext, hcount, hx, hy, hother, hflags, hpc, hmem, hrun⟩ := h
  exact ⟨t, hnext, hcount, hx, hy, hother, hflags, hpc, himp t hmem, hrun⟩

/-! The store changes no register, no flag and not pc, so what follows it takes those of the state before. -/

theorem putWord_elementDone (s : State) (a v dx dy : Word) (h : s.mem.wf) :
    ElementDone s (.next ((s.putWord a v).stepString dx dy).repeatOrLeave) (s.reg xReg + dx) (s.reg yReg + dy) s.flags
      (afterElement s) (StoredWord s · a v) :=
  elementDone_imp (stepString_repeatOrLeave_elementDone (s.putWord a v) dx dy)
    fun _ => (s.putWord_storedWord a v h).of_sharesMemory

theorem putByte_elementDone (s : State) (a : Word) (v : Byte) (dx dy : Word) (h : s.mem.wf) :
    ElementDone s (.next ((s.putByte a v).stepString dx dy).repeatOrLeave) (s.reg xReg + dx) (s.reg yReg + dy) s.flags
      (afterElement s) (StoredByte s · a v) :=
  elementDone_imp (stepString_repeatOrLeave_elementDone (s.putByte a v) dx dy)
    fun _ => (s.putByte_storedByte a v h).of_sharesMemory

/-- Settles O48: MVP's step is the negative of MVN's. -/
theorem wordMoves : Obligations.WordMoves := by
  unfold Obligations.WordMoves
  intro s h
  have hmove (d : Word) : ElementDone s (moveWord s d) (s.reg xReg + d) (s.reg yReg + d) s.flags (afterElement s)
      (StoredWord s · (s.reg yReg) (s.wordAt (s.reg xReg))) :=
    moveWord_eq s d ▸ putWord_elementDone s _ _ d d h
  refine ⟨hmove 4#52, ?_⟩
  rw [BitVec.sub_eq_add_neg, BitVec.sub_eq_add_neg]
  exact hmove (-4#52)

/-- Settles O49: MVPB's step is the negative of MVNB's. -/
theorem byteMoves : Obligations.ByteMoves := by
  unfold Obligations.ByteMoves
  intro s h
  have hmove (d : Word) : ElementDone s (moveByte s d) (s.reg xReg + d) (s.reg yReg + d) s.flags (afterElement s)
      (StoredByte s · (s.reg yReg) (s.byteAt (s.reg xReg))) :=
    moveByte_eq s d ▸ putByte_elementDone s _ _ d d h
  refine ⟨hmove 1#52, ?_⟩
  rw [BitVec.sub_eq_add_neg, BitVec.sub_eq_add_neg]
  exact hmove (-1#52)

/-- Settles O50: the step of X is 0. -/
theorem fills : Obligations.Fills := by
  unfold Obligations.Fills
  intro s h
  have hword := putWord_elementDone s (s.reg yReg) (s.reg xReg) 0#52 4#52 h
  have hbyte := putByte_elementDone s (s.reg yReg) (lowByte (s.reg xReg)) 0#52 1#52 h
  rw [BitVec.add_zero] at hword hbyte
  rw [exec, exec, execSts_eq, execStsb_eq, ← lowByte_eq]
  exact ⟨hword, hbyte⟩

end Sys2Proof.Claims
end

section
/-! The inputs of a boundary (60_exceptions.md R236): one equation for each answer of its order of tests, and from those the reset (R250)
and the interrupts (R237, R238). -/

namespace Sys2Proof.Machine

/-! ### What a boundary answers to an input (R236) -/

/-- rst is tested before all else, so neither the run state nor nmi nor irq matters (R238). -/
theorem State.boundary_of_rst (s : State) (run : Instr → State → Result) (hrst : s.inputsNow.rst = true) :
    s.boundary run = .next ({ s with inputs := s.inputs.tail }.resetTo (s.wordAt config.vecRst)) := by
  simp only [State.boundary, hrst, if_true, State.resetEvent_eq, finish_ok]
  rfl

/-- nmi is tested before irq (R238) and is not masked (R237). -/
theorem State.boundary_of_nmi (s : State) (run : Instr → State → Result) (hrst : s.inputsNow.rst = false)
    (hrun : s.run ≠ .stopped) (hnmi : s.inputsNow.nmi = true) :
    s.boundary run = .next ({ s with inputs := s.inputs.tail }.trapped config.vecNmi s.pc false) := by
  simp [State.boundary, hrst, hrun, hnmi]

/-- irq with `i` = 0 is taken, and it ends a wait (R237). -/
theorem State.boundary_of_irq (s : State) (run : Instr → State → Result) (hrst : s.inputsNow.rst = false)
    (hrun : s.run ≠ .stopped) (hnmi : s.inputsNow.nmi = false) (hirq : s.inputsNow.irq = true) (hi : s.flags.i = false) :
    s.boundary run = .next ({ s with inputs := s.inputs.tail }.trapped config.vecIrq s.pc false) := by
  simp [State.boundary, hrst, hrun, hnmi, hirq, hi]

/-- irq with `i` = 1 is held off (R237), but it ends a wait (R196). -/
theorem State.boundary_of_masked_irq (s : State) (run : Instr → State → Result) (hrst : s.inputsNow.rst = false)
    (hwaiting : s.run = .waiting) (hnmi : s.inputsNow.nmi = false) (hirq : s.inputsNow.irq = true) (hi : s.flags.i = true) :
    s.boundary run = .next { s with inputs := s.inputs.tail, run := .running } := by
  simp [State.boundary, hrst, hwaiting, hnmi, hirq, hi]

/-- Reset() writes flags, pc and the run state only, so it shares all of memory (R250). -/
theorem State.SharesMemory.resetTo {s t : State} (h : s.SharesMemory t) (start : Word) : s.SharesMemory (t.resetTo start) := h

end Sys2Proof.Machine

namespace Sys2Proof.Claims

open Sys2Proof Sys2Proof.Machine

/-- Settles O15: no access stops the trap, so it is State.trapped. -/
theorem trapEntryEffect : Obligations.TrapEntryEffect := by
  unfold Obligations.TrapEntryEffect
  intro s vec ret bval h
  exact completes_of_eq_trapped h (congrArg finish (s.trapEntry_eq vec ret bval))

/-- Settles O13: the vectors of the two traps are the platform's VEC_NMI and VEC_IRQ. -/
theorem interruptInputsAreAnswered : Obligations.InterruptInputsAreAnswered := by
  unfold Obligations.InterruptInputsAreAnswered
  intro s hrst h
  refine ⟨fun hrun hnmi => ?_, fun hrun hnmi hirq hi => ?_, fun hwaiting hnmi hirq hi => ?_⟩
  · exact completes_of_eq_trapped h (s.boundary_of_nmi exec hrst hrun hnmi)
  · exact completes_of_eq_trapped h (s.boundary_of_irq exec hrst hrun hnmi hirq hi)
  · exact s.boundary_of_masked_irq exec hrst hwaiting hnmi hirq hi

/-- Settles O12: the word at VEC_RST is read from a memory that nothing has written, and Reset() pushes nothing. -/
theorem resetInputResets : Obligations.ResetInputResets := by
  unfold Obligations.ResetInputResets
  intro s hrst
  have hmem : s.SharesMemory { s with inputs := s.inputs.tail } := ⟨rfl, rfl⟩
  exact ⟨_, s.boundary_of_rst exec hrst, fun _ => rfl, (hmem.resetTo _).sameMemory, rfl, rfl, rfl, rfl, rfl⟩

end Sys2Proof.Claims
end
